-- ==== Sys2Proof/Word.lean ====
section
/-! DEFINITION. The widths of the block's values (spec 00 R7, 30 R80, R81): byte, bit cell, 16-bit field,
32-bit integer cell, 96-bit instruction record. -/

namespace Sys2Proof

/-- A byte of a container or of a record (30 R80). -/
abbrev Byte := BitVec 8

/-- The value of a bit-memory cell, 0 or 1 (10 R34). -/
abbrev Bit := BitVec 1

/-- A 16-bit value: a `u16` register or opcode, or an `s16` operand field, whose signed reading is `toInt` (00 R7). -/
abbrev Half := BitVec 16

/-- A 32-bit value: an integer cell or `literal1`, whose `s32` reading is `toInt` (00 R7). -/
abbrev Word := BitVec 32

/-- An instruction record as program memory holds it; its byte `k` is bits `8k+7 .. 8k` (30 R80). -/
abbrev Record := BitVec 96

end Sys2Proof
end

