-- ==== Sys2Proof/Config.lean ====
section
/-! DEFINITION. The implementation parameters of the block (spec 00 R5, R6), their reference values, and the two
free values the spec leaves open (10 R36, R46). -/

namespace Sys2Proof

/-- The 25 named opcodes, in the order of the opcode map (30 R86). -/
inductive Opcode where
  | setb | clrb | movb
  | seti | movi | inc | dec
  | add | sub | mul | div | mod
  | ifbs | ifbc | ifltl | ifeq | ifge | ifle | ifne | ifgt
  | jmp | endScan | afwd | aknown | arslv
deriving DecidableEq, Repr

/-- Every named opcode, in the order of 30 R86. -/
def Opcode.all : List Opcode :=
  [.setb, .clrb, .movb, .seti, .movi, .inc, .dec, .add, .sub, .mul, .div, .mod, .ifbs, .ifbc, .ifltl,
   .ifeq, .ifge, .ifle, .ifne, .ifgt, .jmp, .endScan, .afwd, .aknown, .arslv]

/-- The place of an opcode in the opcode map, counted from 0 (30 R86). -/
def Opcode.index : Opcode → Fin 25
  | .setb => 0 | .clrb => 1 | .movb => 2 | .seti => 3 | .movi => 4 | .inc => 5 | .dec => 6 | .add => 7 | .sub => 8
  | .mul => 9 | .div => 10 | .mod => 11 | .ifbs => 12 | .ifbc => 13 | .ifltl => 14 | .ifeq => 15 | .ifge => 16
  | .ifle => 17 | .ifne => 18 | .ifgt => 19 | .jmp => 20 | .endScan => 21 | .afwd => 22 | .aknown => 23 | .arslv => 24

/-- The byte order of the fields of a record (00 R5, 30 R82). -/
inductive ByteOrder where
  | le | be
deriving DecidableEq, Repr

/-- The two memory banks a host access selects (10 R40). -/
inductive Bank where
  | bit | integer
deriving DecidableEq, Repr

/-- The parameters of a block (00 R5). -/
structure Config where
  /-- Number of bit-memory cells, `NB`. -/
  nb : Nat
  /-- Number of integer-memory cells, `NI`. -/
  ni : Nat
  /-- Number of program-memory slots, `MAX_OPS`. -/
  maxOps : Nat
  /-- Capacity of the input map, `NX`. -/
  nx : Nat
  /-- Capacity of the output map, `NY`. -/
  ny : Nat
  /-- Capacity of the analog map, `NA`. -/
  na : Nat
  /-- The numbering `OPC`, by the opcodes' places in 30 R86. -/
  opc : Vector Half 25
  /-- `BYTE_ORDER`. -/
  byteOrder : ByteOrder
  /-- `CYCLE_DEFAULT`, in microseconds. -/
  cycleDefault : Nat
  /-- `ANALOG_BANK`, read by the host's analog glue only. -/
  analogBank : Bank
deriving DecidableEq, Repr

/-- `OPC(x)` (00 R5). -/
def Config.opcodeValue (c : Config) (x : Opcode) : Half := c.opc.get x.index

/-- The named opcode an `op` value selects, or none for an unrecognized one (30 R87). -/
def Config.opcodeOf (c : Config) (v : Half) : Option Opcode :=
  Opcode.all.find? (fun x => c.opcodeValue x == v)

/-- The constraints of 00 R6, with a default period that 10 R50's "a positive integer" and 30 R112 admit
(DEDUCED, safe: log 19). -/
abbrev Config.Admissible (c : Config) : Prop :=
  (1 ≤ c.nb ∧ c.nb ≤ 32768) ∧ (1 ≤ c.ni ∧ c.ni ≤ 32768) ∧ (1 ≤ c.maxOps ∧ c.maxOps ≤ 32768) ∧
  c.opc.toList.Nodup ∧ (0 : Half) ∉ c.opc.toList ∧ (1 ≤ c.cycleDefault ∧ c.cycleDefault ≤ 2147483647)

/-- The reference values of 00 R5 with the numbering `OPC_ref` of 30 R86. `ANALOG_BANK` has no reference value:
the integer bank is a DESIGN CHOICE, unsafe for claims about the host's analog glue (log 2). -/
def Config.reference : Config where
  nb := 128
  ni := 128
  maxOps := 1024
  nx := 16
  ny := 16
  na := 16
  opc := #v[1, 2, 3, 4, 5, 6, 7, 8, 9, 10, 11, 12, 13, 14, 15, 16, 17, 18, 19, 20, 21, 22, 23, 24, 25]
  byteOrder := .le
  cycleDefault := 10000
  analogBank := .integer

/-- FREE VALUE: what program slot `slot` holds after the `epoch`-th Reset while nothing has been written to it
("After reset the contents of every slot are unspecified", 10 R36; log 3). -/
opaque Config.unspecifiedSlot (epoch slot : Nat) : Record

/-- FREE VALUE: the data of the `n`-th host read whose value the spec leaves unspecified (10 R46, R49; log 8). -/
opaque Config.unspecifiedRead (n : Nat) : Word

end Sys2Proof
end

