-- ==== Sys2Proof/Syntax.lean ====
section
/-! DEFINITION. The instructions: one constructor per row of the opcode table, with the operand fields its form
uses (spec 30 R84, R86). Operand fields are `s16` values, the literal an `s32` value, as the record holds them. -/

namespace Sys2Proof

/-- An instruction. `n1`, `n2`, `n3` and `lit` are the record's fields of those names (30 R83); a field the form does
not use is not kept (30 R89). -/
inductive Instr where
  -- bit assignment (41)
  | setb (n1 : Half)
  | clrb (n1 : Half)
  | movb (n1 n2 : Half)
  -- integer assignment (42)
  | seti (n1 : Half) (lit : Word)
  | movi (n1 n2 : Half)
  | inc (n1 : Half)
  | dec (n1 : Half)
  -- arithmetic (42)
  | add (n1 n2 n3 : Half)
  | sub (n1 n2 n3 : Half)
  | mul (n1 n2 n3 : Half)
  | div (n1 n2 n3 : Half)
  | mod (n1 n2 n3 : Half)
  -- conditional skip (43); `n3` is the target
  | ifbs (n1 n3 : Half)
  | ifbc (n1 n3 : Half)
  | ifltl (n1 : Half) (lit : Word) (n3 : Half)
  | ifeq (n1 n2 n3 : Half)
  | ifge (n1 n2 n3 : Half)
  | ifle (n1 n2 n3 : Half)
  | ifne (n1 n2 n3 : Half)
  | ifgt (n1 n2 n3 : Half)
  -- jump, end, markers, unrecognized (44)
  | jmp (n3 : Half)
  | endScan
  | afwd
  | aknown
  | arslv
  | unrecognized (op : Half)
deriving DecidableEq, Repr

end Sys2Proof
end

