-- ==== Sys2Proof/WellFormed.lean ====
section
/-! DEFINITION. The opcode of an instruction, and which instructions a numbering `OPC` can spell (spec 30 R86, R87):
every field value is allowed (30 R89, R104), and an unrecognized `op` is one that names no opcode. -/

namespace Sys2Proof

/-- The named opcode of an instruction; none for the unrecognized class (30 R86). -/
def Instr.opcode : Instr → Option Opcode
  | .setb _ => some .setb
  | .clrb _ => some .clrb
  | .movb _ _ => some .movb
  | .seti _ _ => some .seti
  | .movi _ _ => some .movi
  | .inc _ => some .inc
  | .dec _ => some .dec
  | .add _ _ _ => some .add
  | .sub _ _ _ => some .sub
  | .mul _ _ _ => some .mul
  | .div _ _ _ => some .div
  | .mod _ _ _ => some .mod
  | .ifbs _ _ => some .ifbs
  | .ifbc _ _ => some .ifbc
  | .ifltl _ _ _ => some .ifltl
  | .ifeq _ _ _ => some .ifeq
  | .ifge _ _ _ => some .ifge
  | .ifle _ _ _ => some .ifle
  | .ifne _ _ _ => some .ifne
  | .ifgt _ _ _ => some .ifgt
  | .jmp _ => some .jmp
  | .endScan => some .endScan
  | .afwd => some .afwd
  | .aknown => some .aknown
  | .arslv => some .arslv
  | .unrecognized _ => none

/-- The one check: an unrecognized instruction's `op` is the number of no named opcode (30 R87, 44 R227). -/
def Instr.wellFormed (c : Config) : Instr → Bool
  | .unrecognized op => (c.opcodeOf op).isNone
  | _ => true

end Sys2Proof
end

