-- ==== Sys2Proof/Decode.lean ====
section
/-! DEFINITION. The record's fields, the decoder and the encoder (spec 30 R80 to R91, 40 R133). -/

namespace Sys2Proof

/-- The five fields of a record (30 R81, R83). -/
structure Fields where
  op : Half
  n1 : Half
  n2 : Half
  n3 : Half
  lit : Word
deriving DecidableEq, Repr

/-- Byte `k` of a record (30 R80). -/
def recordByte (w : Record) (k : Nat) : Byte := w.extractLsb' (8 * k) 8

/-- A two-byte field from its bytes in record order (30 R82). -/
def halfOfBytes (bo : ByteOrder) (b0 b1 : Byte) : Half :=
  match bo with
  | .le => b1 ++ b0
  | .be => b0 ++ b1

/-- A four-byte field from its bytes in record order (30 R82). -/
def wordOfBytes (bo : ByteOrder) (b0 b1 b2 b3 : Byte) : Word :=
  match bo with
  | .le => b3 ++ b2 ++ b1 ++ b0
  | .be => b0 ++ b1 ++ b2 ++ b3

/-- The fields of a record: `op`, `name1`, `name2`, `name3` at bytes 0, 2, 4, 6 and `literal1` at byte 8
(30 R81, R83). -/
def fieldsOf (bo : ByteOrder) (w : Record) : Fields where
  op := halfOfBytes bo (recordByte w 0) (recordByte w 1)
  n1 := halfOfBytes bo (recordByte w 2) (recordByte w 3)
  n2 := halfOfBytes bo (recordByte w 4) (recordByte w 5)
  n3 := halfOfBytes bo (recordByte w 6) (recordByte w 7)
  lit := wordOfBytes bo (recordByte w 8) (recordByte w 9) (recordByte w 10) (recordByte w 11)

/-- Byte `j` of a two-byte field, in record order (30 R82). -/
def halfByte (bo : ByteOrder) (h : Half) (j : Nat) : Byte :=
  match bo with
  | .le => h.extractLsb' (8 * j) 8
  | .be => h.extractLsb' (8 * (1 - j)) 8

/-- Byte `j` of a four-byte field, in record order (30 R82). -/
def wordByte (bo : ByteOrder) (v : Word) (j : Nat) : Byte :=
  match bo with
  | .le => v.extractLsb' (8 * j) 8
  | .be => v.extractLsb' (8 * (3 - j)) 8

/-- A record from its bytes, byte 0 in the lowest bits (30 R80). -/
def recordOfBytes (b0 b1 b2 b3 b4 b5 b6 b7 b8 b9 b10 b11 : Byte) : Record :=
  b11 ++ b10 ++ b9 ++ b8 ++ b7 ++ b6 ++ b5 ++ b4 ++ b3 ++ b2 ++ b1 ++ b0

/-- The record that holds the given fields (30 R80 to R82). -/
def recordOf (bo : ByteOrder) (f : Fields) : Record :=
  recordOfBytes (halfByte bo f.op 0) (halfByte bo f.op 1) (halfByte bo f.n1 0) (halfByte bo f.n1 1)
    (halfByte bo f.n2 0) (halfByte bo f.n2 1) (halfByte bo f.n3 0) (halfByte bo f.n3 1)
    (wordByte bo f.lit 0) (wordByte bo f.lit 1) (wordByte bo f.lit 2) (wordByte bo f.lit 3)

/-- The instruction of a named opcode, with the fields its form uses (30 R84). -/
def instrOf (x : Opcode) (f : Fields) : Instr :=
  match x with
  | .setb => .setb f.n1
  | .clrb => .clrb f.n1
  | .movb => .movb f.n1 f.n2
  | .seti => .seti f.n1 f.lit
  | .movi => .movi f.n1 f.n2
  | .inc => .inc f.n1
  | .dec => .dec f.n1
  | .add => .add f.n1 f.n2 f.n3
  | .sub => .sub f.n1 f.n2 f.n3
  | .mul => .mul f.n1 f.n2 f.n3
  | .div => .div f.n1 f.n2 f.n3
  | .mod => .mod f.n1 f.n2 f.n3
  | .ifbs => .ifbs f.n1 f.n3
  | .ifbc => .ifbc f.n1 f.n3
  | .ifltl => .ifltl f.n1 f.lit f.n3
  | .ifeq => .ifeq f.n1 f.n2 f.n3
  | .ifge => .ifge f.n1 f.n2 f.n3
  | .ifle => .ifle f.n1 f.n2 f.n3
  | .ifne => .ifne f.n1 f.n2 f.n3
  | .ifgt => .ifgt f.n1 f.n2 f.n3
  | .jmp => .jmp f.n3
  | .endScan => .endScan
  | .afwd => .afwd
  | .aknown => .aknown
  | .arslv => .arslv

/-- Decoding a fetched word: total, by the `op` field alone; an `op` that names no opcode gives the unrecognized
instruction (30 R83, R87, R88, 40 R133). -/
def decode (c : Config) (w : Record) : Instr :=
  match c.opcodeOf (fieldsOf c.byteOrder w).op with
  | some x => instrOf x (fieldsOf c.byteOrder w)
  | none => .unrecognized (fieldsOf c.byteOrder w).op

/-- Why bytes hold no instruction: fewer than the 12 of a record (30 R80, R90). Safe: nothing runs. -/
inductive DecodeError where
  | shortRecord (length : Nat)
deriving DecidableEq, Repr

/-- The record that a list of bytes begins with, byte 0 first, and the bytes after it (30 R80). -/
def takeRecord : List Byte → Except DecodeError (Record × List Byte)
  | b0 :: b1 :: b2 :: b3 :: b4 :: b5 :: b6 :: b7 :: b8 :: b9 :: b10 :: b11 :: rest =>
    .ok (recordOfBytes b0 b1 b2 b3 b4 b5 b6 b7 b8 b9 b10 b11, rest)
  | bytes => .error (.shortRecord bytes.length)

/-- The instruction that a list of bytes begins with, and the bytes after it. -/
def decodeBytes (c : Config) (bytes : List Byte) : Except DecodeError (Instr × List Byte) :=
  match takeRecord bytes with
  | .ok (w, rest) => .ok (decode c w, rest)
  | .error e => .error e

/-- The fields an instruction is written with, 0 in every unused one (30 R84, R89, R120). -/
def Instr.fields (c : Config) (i : Instr) : Fields :=
  match i with
  | .setb n1 => ⟨c.opcodeValue .setb, n1, 0, 0, 0⟩
  | .clrb n1 => ⟨c.opcodeValue .clrb, n1, 0, 0, 0⟩
  | .movb n1 n2 => ⟨c.opcodeValue .movb, n1, n2, 0, 0⟩
  | .seti n1 lit => ⟨c.opcodeValue .seti, n1, 0, 0, lit⟩
  | .movi n1 n2 => ⟨c.opcodeValue .movi, n1, n2, 0, 0⟩
  | .inc n1 => ⟨c.opcodeValue .inc, n1, 0, 0, 0⟩
  | .dec n1 => ⟨c.opcodeValue .dec, n1, 0, 0, 0⟩
  | .add n1 n2 n3 => ⟨c.opcodeValue .add, n1, n2, n3, 0⟩
  | .sub n1 n2 n3 => ⟨c.opcodeValue .sub, n1, n2, n3, 0⟩
  | .mul n1 n2 n3 => ⟨c.opcodeValue .mul, n1, n2, n3, 0⟩
  | .div n1 n2 n3 => ⟨c.opcodeValue .div, n1, n2, n3, 0⟩
  | .mod n1 n2 n3 => ⟨c.opcodeValue .mod, n1, n2, n3, 0⟩
  | .ifbs n1 n3 => ⟨c.opcodeValue .ifbs, n1, 0, n3, 0⟩
  | .ifbc n1 n3 => ⟨c.opcodeValue .ifbc, n1, 0, n3, 0⟩
  | .ifltl n1 lit n3 => ⟨c.opcodeValue .ifltl, n1, 0, n3, lit⟩
  | .ifeq n1 n2 n3 => ⟨c.opcodeValue .ifeq, n1, n2, n3, 0⟩
  | .ifge n1 n2 n3 => ⟨c.opcodeValue .ifge, n1, n2, n3, 0⟩
  | .ifle n1 n2 n3 => ⟨c.opcodeValue .ifle, n1, n2, n3, 0⟩
  | .ifne n1 n2 n3 => ⟨c.opcodeValue .ifne, n1, n2, n3, 0⟩
  | .ifgt n1 n2 n3 => ⟨c.opcodeValue .ifgt, n1, n2, n3, 0⟩
  | .jmp n3 => ⟨c.opcodeValue .jmp, 0, 0, n3, 0⟩
  | .endScan => ⟨c.opcodeValue .endScan, 0, 0, 0, 0⟩
  | .afwd => ⟨c.opcodeValue .afwd, 0, 0, 0, 0⟩
  | .aknown => ⟨c.opcodeValue .aknown, 0, 0, 0, 0⟩
  | .arslv => ⟨c.opcodeValue .arslv, 0, 0, 0, 0⟩
  | .unrecognized op => ⟨op, 0, 0, 0, 0⟩

/-- The record of an instruction (30 R80 to R86, R120). -/
def encode (c : Config) (i : Instr) : Record := recordOf c.byteOrder (i.fields c)

/-- The record whose container line spells the bytes of `w`, first byte lowest: the host's numbering of the opcode
table, under the reference parameters. Every record decodes (30 R83); only a longer one is refused. -/
def decodeTableWord (nbits w : Nat) : Option Instr :=
  if nbits ≤ 96 then some (decode Config.reference (BitVec.ofNat 96 (w % 2 ^ nbits))) else none

end Sys2Proof
end

