-- ==== Sys2Proof/Machine/State.lean ====
section
/-! DEFINITION. The state of one block and its host (spec 10), the host's operations and moves (10 R40, R49), why a
step can stop, and the state right after reset (10 R51). -/

namespace Sys2Proof.Machine

/-- The dispatch FSM's states; the encoding 3 is never reached (10 R25). -/
inductive Fsm where
  | idle | run | fault
deriving DecidableEq, Repr

/-- The fault causes of 60 R241; the reserved codes 5 to 15 are never produced. -/
inductive FaultCause where
  | none | bitAddr | intAddr | jumpTarget | notLoaded
deriving DecidableEq, Repr

/-- What the loader reads: a file that cannot be read, or a buffer of bytes (30 R97). -/
inductive Source where
  | unreadable
  | bytes (contents : List Byte)
deriving DecidableEq, Repr

/-- The load errors, a closed set (30 R113). -/
inductive LoadError where
  | unreadable | badSignature | badLength | badHex | truncated | tooLong | badCycle | noEnd | manyEnd | badTarget
deriving DecidableEq, Repr

/-- What the last load reported to the host (30 R113, R115). -/
inductive LoadReport where
  | none
  | loaded
  | failed (e : LoadError)
deriving DecidableEq, Repr

/-- The block's host operations (10 R40). -/
inductive HostOp where
  | reset
  | progInvalidate
  | progWrite (i : Half) (w : Record)
  | progCommit (n : Half)
  | start
  | memRead (bank : Bank) (a : Half)
  | memWrite (bank : Bank) (a : Half) (v : Word)
  | regRead (k : BitVec 4)
deriving DecidableEq, Repr

/-- A move of the host: one operation, or a host-side sequence of operations, or letting the engine take its step. -/
inductive HostMove where
  /-- One operation of 10 R40. -/
  | op (o : HostOp)
  /-- The host does nothing while the block takes one step (10 R49: the agents interleave). -/
  | pass
  /-- `LoadProgram` (10 R40; 30 R95 to R116). -/
  | load (source : Source)
  /-- ReadInputs: the pins' physical values, by pin index (10 R43). -/
  | readInputs (pins : List (Nat × Bit))
  /-- WriteOutputs (10 R43). -/
  | writeOutputs
  /-- The host's analog glue reading the cells of the analog map in `ANALOG_BANK` (00 R5, 10 R50). -/
  | readAnalog
  /-- One period of 70 R273, with the physical values of the input pins. -/
  | period (pins : List (Nat × Bit))
  /-- The part of a period that follows the scan (70 R273). -/
  | afterScan
deriving DecidableEq, Repr

/-- A sparse memory: pairs of a cell's address and its value. -/
abbrev Cells (w : Nat) := List (Nat × BitVec w)

/-- One block and its host. -/
structure State where
  /-- The parameters (00 R5): fixed, written by no step (log 1). -/
  cfg : Config
  /-- The program counter (10 R21). -/
  pc : Half
  /-- `N`, the number of loaded instructions (10 R23). -/
  progLen : Half
  /-- `LOADED` (10 R24). -/
  loaded : Bool
  /-- The dispatch FSM (10 R25). -/
  fsm : Fsm
  /-- `DONE` (10 R28). -/
  done : Bool
  /-- `FELL_OFF` (10 R29). -/
  fellOff : Bool
  /-- `FAULT_CAUSE` (10 R30). -/
  faultCause : FaultCause
  /-- `FAULT_PC` (10 R31). -/
  faultPc : Half
  /-- `FAULT_OP` (10 R31). -/
  faultOp : Half
  /-- `FAULT_ARG` (10 R31). -/
  faultArg : Word
  /-- `UNK` (10 R32). -/
  unk : Bool
  /-- `UNK_COUNT` (10 R32). -/
  unkCount : Half
  /-- `UNK_LAST` (10 R32). -/
  unkLast : Half
  /-- Bit memory (10 R34): an unlisted cell is 0. -/
  bits : Cells 1
  /-- Integer memory (10 R35): an unlisted cell is 0. -/
  ints : Cells 32
  /-- Program memory (10 R36): the slots written since the last Reset. -/
  prog : Cells 96
  /-- `IOMAP_X`, by pin index (10 R50); host-side. -/
  iomapX : List (Option Nat)
  /-- `IOMAP_Y` (10 R50); host-side. -/
  iomapY : List (Option Nat)
  /-- `IOMAP_A` (10 R50); host-side. -/
  iomapA : List (Option Nat)
  /-- `CYCLE_TIME` in microseconds (10 R50); host-side. -/
  cycleTime : Nat
  /-- The signal `mem_rdata` (10 R40): the data of the last MemRead. -/
  memRdata : Word
  /-- The signal `reg_rdata` (10 R40): the data of the last RegRead. -/
  regRdata : Word
  /-- MODEL: what the last load reported (30 R113). -/
  loadReport : LoadReport
  /-- MODEL: the host's pending moves, oldest first (log 5). -/
  moves : List HostMove
  /-- MODEL: Resets applied so far; names the free contents of program memory (log 3). -/
  resets : Nat
  /-- MODEL: free values drawn by host reads so far (log 8). -/
  draws : Nat
deriving DecidableEq, Repr

/-- Why the machine stops. -/
inductive Fault where
  /-- Raised by the step when FSM = FAULT and no move of the host is pending: "the engine has no step" there
  (60 R246). Safe: the machine stops, and only a Reset could go on. -/
  | blockFaulted (cause : FaultCause)
  /-- Raised by the step when FSM = RUN and pc is above N, where no slot is ever fetched (10 R36, 40 R132, R134).
  Safe: no run reaches such a state. -/
  | fetchBeyondProgram
deriving DecidableEq, Repr

/-- Why an instruction has no meaning. -/
inductive Refusal where
  /-- Raised by an arm of `exec` for an instruction not modelled yet; no arm raises it. Safe. -/
  | notModelled (mnemonic : String)
deriving DecidableEq, Repr

/-- A block with parameters `c` right after reset, and its host before any load (10 R50, R51, 70 R270, R271). -/
def State.initial (c : Config) : State where
  cfg := c
  pc := 0
  progLen := 0
  loaded := false
  fsm := .idle
  done := false
  fellOff := false
  faultCause := .none
  faultPc := 0
  faultOp := 0
  faultArg := 0
  unk := false
  unkCount := 0
  unkLast := 0
  bits := []
  ints := []
  prog := []
  iomapX := List.replicate c.nx none
  iomapY := List.replicate c.ny none
  iomapA := List.replicate c.na none
  cycleTime := c.cycleDefault
  memRdata := 0
  regRdata := 0
  loadReport := .none
  moves := []
  resets := 0
  draws := 0

/-- The machine right after reset, with the reference parameters (00 R5, 10 R51). -/
def State.reset : State := State.initial Config.reference

end Sys2Proof.Machine
end

