-- ==== Sys2Proof/Machine/Ops.lean ====
section
/-! DEFINITION. The named operations over the memories and registers, fault entry, the ways an instruction ends, and
instruction fetch (spec 10, 20, 40, 60). -/

namespace Sys2Proof.Machine

/-! ### Sparse memories -/

/-- The listed value of a cell. -/
def Cells.lookup {w : Nat} : Cells w → Nat → Option (BitVec w)
  | [], _ => none
  | (k, v) :: rest, a => if a = k then some v else Cells.lookup rest a

/-- List a value for a cell, in its place by address. -/
def Cells.insert {w : Nat} : Cells w → Nat → BitVec w → Cells w
  | [], a, v => [(a, v)]
  | (k, u) :: rest, a, v =>
    if a < k then (a, v) :: (k, u) :: rest
    else if a = k then (a, v) :: rest
    else (k, u) :: Cells.insert rest a v

/-- Unlist a cell. -/
def Cells.erase {w : Nat} : Cells w → Nat → Cells w
  | [], _ => []
  | (k, u) :: rest, a => if a = k then Cells.erase rest a else (k, u) :: Cells.erase rest a

/-- What an unlisted data cell reads as: 0, the reset value of every cell (10 R34, R35, R51). -/
def Cells.blank {w : Nat} : BitVec w := 0

/-- Read a data cell. -/
def Cells.read {w : Nat} (m : Cells w) (a : Nat) : BitVec w := (Cells.lookup m a).getD Cells.blank

/-- Write a data cell, keeping the canonical form: a cell that holds what an unlisted one reads as is unlisted. -/
def Cells.write {w : Nat} (m : Cells w) (a : Nat) (v : BitVec w) : Cells w :=
  if v = Cells.blank then Cells.erase m a else Cells.insert m a v

/-- Every listed address is above `a`, and they strictly rise. -/
def Cells.risingFrom {w : Nat} : Cells w → Nat → Bool
  | [], _ => true
  | (k, _) :: rest, a => decide (a < k) && Cells.risingFrom rest k

/-- The listed addresses strictly rise. -/
def Cells.rising {w : Nat} : Cells w → Bool
  | [] => true
  | (k, _) :: rest => Cells.risingFrom rest k

/-- Every listed address is below the capacity. -/
def Cells.below {w : Nat} (m : Cells w) (size : Nat) : Bool := m.all (fun c => decide (c.1 < size))

/-- No listed cell holds what an unlisted one reads as. -/
def Cells.noBlank {w : Nat} (m : Cells w) : Bool := m.all (fun c => c.2 != Cells.blank)

/-- The canonical form of the three memories: addresses strictly rise and exist, and no data cell is listed with the
value 0. A slot of program memory has no known unlisted value, so every written slot stays listed (log 3). -/
def Memory.wf (s : State) : Bool :=
  Cells.rising s.bits && Cells.below s.bits s.cfg.nb && Cells.noBlank s.bits &&
  (Cells.rising s.ints && Cells.below s.ints s.cfg.ni && Cells.noBlank s.ints) &&
  (Cells.rising s.prog && Cells.below s.prog s.cfg.maxOps)

/-! ### The memories of a state -/

/-- `0 <= a < size`, for an `s16` address or target used as it stands (20 R61). -/
def inRange (a : Half) (size : Nat) : Bool := decide (0 ≤ a.toInt ∧ a.toInt < (size : Int))

/-- The cell or slot an `s16` value in range names (20 R61). -/
def cellOf (a : Half) : Nat := a.toInt.toNat

/-- `Bit[a]` (00 R8). -/
def State.bit (s : State) (a : Nat) : Bit := Cells.read s.bits a

/-- `Int[a]` (00 R8). -/
def State.int (s : State) (a : Nat) : Word := Cells.read s.ints a

/-- `PROG[i]` (00 R8); a slot nothing has written since the last Reset holds a free value (10 R36; log 3). -/
def State.slot (s : State) (i : Nat) : Record :=
  (Cells.lookup s.prog i).getD (Config.unspecifiedSlot s.resets i)

/-- `Bit[a] <- v` (00 R8). -/
def State.setBit (s : State) (a : Nat) (v : Bit) : State := { s with bits := Cells.write s.bits a v }

/-- `Int[a] <- v` (00 R8). -/
def State.setInt (s : State) (a : Nat) (v : Word) : State := { s with ints := Cells.write s.ints a v }

/-- `PROG[i] <- w` (10 R42). -/
def State.setSlot (s : State) (i : Nat) (w : Record) : State := { s with prog := Cells.insert s.prog i w }

/-! ### Faults -/

/-- Fault entry (60 R244): the FSM and the fault record are written, nothing else. `arg` is the offending field,
sign-extended. There is no return from a fault (60 R246). -/
def enterFault (cause : FaultCause) (pc op arg : Half) (s : State) : State :=
  { s with fsm := .fault, faultCause := cause, faultPc := pc, faultOp := op, faultArg := arg.signExtend 32 }

/-- `raise Fault(cause, arg)` by the instruction at `pc` with the given `op` field (00 R8, 60 R244). -/
def raiseFault (cause : FaultCause) (op arg : Half) (s : State) : State := enterFault cause s.pc op arg s

/-! ### The outcomes of an instruction -/

/-- The three outcomes of an opcode rule (40 R136). -/
inductive Exit where
  | next
  | jump (target : Half)
  | stop
deriving DecidableEq, Repr

/-- The PC after an outcome (40 R135). -/
def Exit.pcAfter (pc : Half) : Exit → Half
  | .next => pc + 1
  | .jump t => t
  | .stop => pc

/-- The PC, `DONE` and FSM after an outcome: `Stop` ends the scan (40 R131). -/
def State.leave (s : State) (e : Exit) : State :=
  { s with
    pc := e.pcAfter s.pc
    done := if e = .stop then true else s.done
    fsm := if e = .stop then .idle else s.fsm }

/-- The end of a scan at `pc = N` (40 R134). -/
def State.fallOff (s : State) : State := { s with done := true, fellOff := true, fsm := .idle }

/-- The report of an unrecognized opcode (10 R32, 44 R227). -/
def State.reportUnknown (s : State) (op : Half) : State :=
  { s with
    unk := true
    unkCount := if s.unkCount.toNat < 0xFFFF then s.unkCount + 1 else s.unkCount
    unkLast := op }

/-! ### Fetch -/

/-- The instruction at `pc`: the whole slot, decoded (40 R132, R133). -/
def State.fetch (s : State) : Instr := decode s.cfg (s.slot s.pc.toNat)

/-- A scan that is about to run the record `w` as its next instruction: `w` in the slot that `pc` names, a program
loaded that reaches that slot, the FSM in RUN and no move of the host pending (log 12). -/
def State.aboutToRun (s : State) (w : Record) : State :=
  { s.setSlot s.pc.toNat w with
    loaded := true
    fsm := .run
    progLen := if s.pc.toNat < s.progLen.toNat then s.progLen else s.pc + 1
    moves := [] }

end Sys2Proof.Machine
end

