-- ==== Sys2Proof/Machine/Operands.lean ====
section
/-! DEFINITION. The operand forms and the checks made before an instruction runs (spec 30 R84, 40 R137 to R139). -/

namespace Sys2Proof.Machine

/-- A field that is checked: a bit address, an integer address, or a jump target (20 R62). -/
inductive Operand where
  | bit (a : Half)
  | int (a : Half)
  | target (a : Half)
deriving DecidableEq, Repr

/-- The fault an operand would raise, or none when it is in range (40 R137, R138). -/
def Operand.violation (s : State) : Operand → Option (FaultCause × Half)
  | .bit a => if inRange a s.cfg.nb then none else some (.bitAddr, a)
  | .int a => if inRange a s.cfg.ni then none else some (.intAddr, a)
  | .target a => if inRange a s.progLen.toNat then none else some (.jumpTarget, a)

/-- The first fault in the order of the list: the memory operands in field order, then the target (40 R139). -/
def firstViolation (s : State) : List Operand → Option (FaultCause × Half)
  | [] => none
  | o :: rest =>
    match o.violation s with
    | some f => some f
    | none => firstViolation s rest

/-- Run an instruction of opcode `x` (40 R131): when a check fails the fault is taken and nothing else changes, and
otherwise the instruction's own result is the next state. -/
def checked (x : Opcode) (operands : List Operand) (s result : State) : Host.Outcome State Fault Refusal :=
  match firstViolation s operands with
  | some (cause, arg) => .next (raiseFault cause (s.cfg.opcodeValue x) arg s)
  | none => .next result

/-! The checked fields of each operand form, in order (30 R84). -/

/-- Form `B1`. -/
def formB1 (n1 : Half) : List Operand := [.bit n1]
/-- Form `B2`. -/
def formB2 (n1 n2 : Half) : List Operand := [.bit n1, .bit n2]
/-- Form `IL`; the literal is used whole and not checked (30 R85). -/
def formIL (n1 : Half) : List Operand := [.int n1]
/-- Form `I2`. -/
def formI2 (n1 n2 : Half) : List Operand := [.int n1, .int n2]
/-- Form `I1`. -/
def formI1 (n1 : Half) : List Operand := [.int n1]
/-- Form `I3`. -/
def formI3 (n1 n2 n3 : Half) : List Operand := [.int n1, .int n2, .int n3]
/-- Form `CB`. -/
def formCB (n1 n3 : Half) : List Operand := [.bit n1, .target n3]
/-- Form `CL`. -/
def formCL (n1 n3 : Half) : List Operand := [.int n1, .target n3]
/-- Form `CI`. -/
def formCI (n1 n2 n3 : Half) : List Operand := [.int n1, .int n2, .target n3]
/-- Form `J`. -/
def formJ (n3 : Half) : List Operand := [.target n3]
/-- Form `Z`: nothing is checked (30 R89, 44 R225). -/
def formZ : List Operand := []

end Sys2Proof.Machine
end

