-- ==== Sys2Proof/Machine/Bit.lean ====
section
/-! DEFINITION. Bit assignment (spec 41). -/

namespace Sys2Proof.Machine

/-- `SETB` (R160). -/
def execSetb (n1 : Half) (s : State) : Host.Outcome State Fault Refusal :=
  checked .setb (formB1 n1) s ((s.setBit (cellOf n1) 1).leave .next)

/-- `CLRB` (R161). -/
def execClrb (n1 : Half) (s : State) : Host.Outcome State Fault Refusal :=
  checked .clrb (formB1 n1) s ((s.setBit (cellOf n1) 0).leave .next)

/-- `MOVB` (R162): `n1` the destination, `n2` the source. -/
def execMovb (n1 n2 : Half) (s : State) : Host.Outcome State Fault Refusal :=
  checked .movb (formB2 n1 n2) s ((s.setBit (cellOf n1) (s.bit (cellOf n2))).leave .next)

end Sys2Proof.Machine
end

