-- ==== Sys2Proof/Machine/Flags.lean ====
section
/-! DEFINITION. Conditions and the status view. The block has no flags (spec 10 R26): a condition lives within its
instruction (43 R200, R201), and STATUS is a view of registers (10 R27). -/

namespace Sys2Proof.Machine

/-- The signed relations of the conditional opcodes (43 R201). -/
inductive Relation where
  | lt | eq | ge | le | ne | gt
deriving DecidableEq, Repr

/-- Whether two integer cells, or a cell and the literal, stand in a relation, as `s32` values (43 R201). -/
def Relation.test (r : Relation) (a b : Word) : Bool :=
  match r with
  | .lt => decide (a.toInt < b.toInt)
  | .eq => decide (a.toInt = b.toInt)
  | .ge => decide (a.toInt ≥ b.toInt)
  | .le => decide (a.toInt ≤ b.toInt)
  | .ne => decide (a.toInt ≠ b.toInt)
  | .gt => decide (a.toInt > b.toInt)

/-- Unless-semantics: a true condition falls through, a false one jumps to `n3` (43 R200). -/
def unless_ (cond : Bool) (n3 : Half) : Exit := if cond then .next else .jump n3

/-- The code of the FSM's state (10 R25). -/
def Fsm.code : Fsm → BitVec 2
  | .idle => 0
  | .run => 1
  | .fault => 2

/-- The code of a fault cause (60 R241). -/
def FaultCause.code : FaultCause → BitVec 4
  | .none => 0
  | .bitAddr => 1
  | .intAddr => 2
  | .jumpTarget => 3
  | .notLoaded => 4

/-- `busy`, STATUS bit 1 (10 R27, R40). -/
def State.busy (s : State) : Bool := s.fsm == .run

/-- `fault`, STATUS bit 3 (10 R27, R40). -/
def State.faulted (s : State) : Bool := s.fsm == .fault

/-- `STATUS` (10 R27): bits 31:12 and 7:6 read 0. -/
def State.status (s : State) : Word :=
  (0 : BitVec 20) ++ s.faultCause.code ++ (0 : BitVec 2) ++ BitVec.ofBool s.unk ++ BitVec.ofBool s.fellOff ++
    BitVec.ofBool s.faulted ++ BitVec.ofBool s.done ++ BitVec.ofBool s.busy ++ BitVec.ofBool s.loaded

/-- The register-read port (10 R33, R48). -/
def State.register (s : State) (k : BitVec 4) : Word :=
  match k.toNat with
  | 0 => s.status
  | 1 => s.pc.zeroExtend 32
  | 2 => s.progLen.zeroExtend 32
  | 3 => s.faultPc.zeroExtend 32
  | 4 => s.faultOp.zeroExtend 32
  | 5 => s.faultArg
  | 6 => s.unkCount.zeroExtend 32
  | 7 => s.unkLast.zeroExtend 32
  | _ => 0

end Sys2Proof.Machine
end

