-- ==== Sys2Proof/Machine/Conditional.lean ====
section
/-! DEFINITION. Conditional skip (spec 43): each opcode evaluates its own condition (40 R144) and takes the
unless-semantics of R200. -/

namespace Sys2Proof.Machine

/-- `IFBS` (R202). -/
def execIfbs (n1 n3 : Half) (s : State) : Host.Outcome State Fault Refusal :=
  checked .ifbs (formCB n1 n3) s (s.leave (unless_ (s.bit (cellOf n1) == 1) n3))

/-- `IFBC` (R203). -/
def execIfbc (n1 n3 : Half) (s : State) : Host.Outcome State Fault Refusal :=
  checked .ifbc (formCB n1 n3) s (s.leave (unless_ (s.bit (cellOf n1) == 0) n3))

/-- `IFLTL` (R204). -/
def execIfltl (n1 : Half) (lit : Word) (n3 : Half) (s : State) : Host.Outcome State Fault Refusal :=
  checked .ifltl (formCL n1 n3) s (s.leave (unless_ (Relation.lt.test (s.int (cellOf n1)) lit) n3))

/-- `IFEQ` (R205). -/
def execIfeq (n1 n2 n3 : Half) (s : State) : Host.Outcome State Fault Refusal :=
  checked .ifeq (formCI n1 n2 n3) s
    (s.leave (unless_ (Relation.eq.test (s.int (cellOf n1)) (s.int (cellOf n2))) n3))

/-- `IFGE` (R206). -/
def execIfge (n1 n2 n3 : Half) (s : State) : Host.Outcome State Fault Refusal :=
  checked .ifge (formCI n1 n2 n3) s
    (s.leave (unless_ (Relation.ge.test (s.int (cellOf n1)) (s.int (cellOf n2))) n3))

/-- `IFLE` (R207). -/
def execIfle (n1 n2 n3 : Half) (s : State) : Host.Outcome State Fault Refusal :=
  checked .ifle (formCI n1 n2 n3) s
    (s.leave (unless_ (Relation.le.test (s.int (cellOf n1)) (s.int (cellOf n2))) n3))

/-- `IFNE` (R208). -/
def execIfne (n1 n2 n3 : Half) (s : State) : Host.Outcome State Fault Refusal :=
  checked .ifne (formCI n1 n2 n3) s
    (s.leave (unless_ (Relation.ne.test (s.int (cellOf n1)) (s.int (cellOf n2))) n3))

/-- `IFGT` (R209). -/
def execIfgt (n1 n2 n3 : Half) (s : State) : Host.Outcome State Fault Refusal :=
  checked .ifgt (formCI n1 n2 n3) s
    (s.leave (unless_ (Relation.gt.test (s.int (cellOf n1)) (s.int (cellOf n2))) n3))

end Sys2Proof.Machine
end

