-- ==== Sys2Proof/Machine/Control.lean ====
section
/-! DEFINITION. Jump, end of program, markers and unrecognized opcodes (spec 44). -/

namespace Sys2Proof.Machine

/-- `JMP` (R220). -/
def execJmp (n3 : Half) (s : State) : Host.Outcome State Fault Refusal :=
  checked .jmp (formJ n3) s (s.leave (.jump n3))

/-- `END` (R221): ends the scan, `pc` stays. -/
def execEnd (s : State) : Host.Outcome State Fault Refusal :=
  checked .endScan formZ s (s.leave .stop)

/-- `AFWD` (R222): no run-time effect. -/
def execAfwd (s : State) : Host.Outcome State Fault Refusal :=
  checked .afwd formZ s (s.leave .next)

/-- `AKNOWN` (R223): no run-time effect. -/
def execAknown (s : State) : Host.Outcome State Fault Refusal :=
  checked .aknown formZ s (s.leave .next)

/-- `ARSLV` (R224): no run-time effect. -/
def execArslv (s : State) : Host.Outcome State Fault Refusal :=
  checked .arslv formZ s (s.leave .next)

/-- An unrecognized opcode (R227): reported, and otherwise a no-op. -/
def execUnrecognized (op : Half) (s : State) : Host.Outcome State Fault Refusal :=
  .next ((s.reportUnknown op).leave .next)

end Sys2Proof.Machine
end

