-- ==== Sys2Proof/Machine/Alu.lean ====
section
/-! DEFINITION. The ALU laws (spec 42 R170 to R177): exact arithmetic on the signed values, narrowed at the end. -/

namespace Sys2Proof.Machine

/-- `wrap32(z)`: the 32-bit value congruent to `z` modulo `2^32` (00 R7). -/
def wrap32 (z : Int) : Word := BitVec.ofInt 32 z

/-- R171. -/
def aluAdd (a b : Word) : Word := wrap32 (a.toInt + b.toInt)

/-- R172. -/
def aluSub (a b : Word) : Word := wrap32 (a.toInt - b.toInt)

/-- R173. -/
def aluMul (a b : Word) : Word := wrap32 (a.toInt * b.toInt)

/-- R174, for a divisor that is not 0: the quotient truncated toward zero; `2^31`, from `-2^31 / -1`, wraps. -/
def aluDiv (a b : Word) : Word := wrap32 (Int.tdiv a.toInt b.toInt)

/-- R175, for a divisor that is not 0: `a - b * q` with `q` the truncated quotient. -/
def aluMod (a b : Word) : Word := wrap32 (a.toInt - b.toInt * Int.tdiv a.toInt b.toInt)

/-- R177. -/
def aluInc (a : Word) : Word := wrap32 (a.toInt + 1)

/-- R177. -/
def aluDec (a : Word) : Word := wrap32 (a.toInt - 1)

end Sys2Proof.Machine
end

