-- ==== Sys2Proof/Machine/Integer.lean ====
section
/-! DEFINITION. Integer assignment and arithmetic (spec 42). -/

namespace Sys2Proof.Machine

/-- `SETI` (R180). -/
def execSeti (n1 : Half) (lit : Word) (s : State) : Host.Outcome State Fault Refusal :=
  checked .seti (formIL n1) s ((s.setInt (cellOf n1) lit).leave .next)

/-- `MOVI` (R181): `n1` the destination, `n2` the source. -/
def execMovi (n1 n2 : Half) (s : State) : Host.Outcome State Fault Refusal :=
  checked .movi (formI2 n1 n2) s ((s.setInt (cellOf n1) (s.int (cellOf n2))).leave .next)

/-- `INC` (R182). -/
def execInc (n1 : Half) (s : State) : Host.Outcome State Fault Refusal :=
  checked .inc (formI1 n1) s ((s.setInt (cellOf n1) (aluInc (s.int (cellOf n1)))).leave .next)

/-- `DEC` (R183). -/
def execDec (n1 : Half) (s : State) : Host.Outcome State Fault Refusal :=
  checked .dec (formI1 n1) s ((s.setInt (cellOf n1) (aluDec (s.int (cellOf n1)))).leave .next)

/-- `ADD` (R184). -/
def execAdd (n1 n2 n3 : Half) (s : State) : Host.Outcome State Fault Refusal :=
  checked .add (formI3 n1 n2 n3) s
    ((s.setInt (cellOf n1) (aluAdd (s.int (cellOf n2)) (s.int (cellOf n3)))).leave .next)

/-- `SUB` (R185): `Int[n2] - Int[n3]`. -/
def execSub (n1 n2 n3 : Half) (s : State) : Host.Outcome State Fault Refusal :=
  checked .sub (formI3 n1 n2 n3) s
    ((s.setInt (cellOf n1) (aluSub (s.int (cellOf n2)) (s.int (cellOf n3)))).leave .next)

/-- `MUL` (R186). -/
def execMul (n1 n2 n3 : Half) (s : State) : Host.Outcome State Fault Refusal :=
  checked .mul (formI3 n1 n2 n3) s
    ((s.setInt (cellOf n1) (aluMul (s.int (cellOf n2)) (s.int (cellOf n3)))).leave .next)

/-- The write of `DIV` and `MOD`: none when the divisor is 0, "destination unchanged" (R187, R188). -/
def State.setQuotient (s : State) (a : Nat) (divisor v : Word) : State :=
  { s with ints := if divisor = 0 then s.ints else Cells.write s.ints a v }

/-- `DIV` (R187): `n2` the dividend, `n3` the divisor. -/
def execDiv (n1 n2 n3 : Half) (s : State) : Host.Outcome State Fault Refusal :=
  checked .div (formI3 n1 n2 n3) s
    ((s.setQuotient (cellOf n1) (s.int (cellOf n3))
      (aluDiv (s.int (cellOf n2)) (s.int (cellOf n3)))).leave .next)

/-- `MOD` (R188): `n2` the dividend, `n3` the divisor. -/
def execMod (n1 n2 n3 : Half) (s : State) : Host.Outcome State Fault Refusal :=
  checked .mod (formI3 n1 n2 n3) s
    ((s.setQuotient (cellOf n1) (s.int (cellOf n3))
      (aluMod (s.int (cellOf n2)) (s.int (cellOf n3)))).leave .next)

end Sys2Proof.Machine
end

