-- ==== Sys2Proof/Machine/Dispatch.lean ====
section
/-! DEFINITION. The dispatch: one arm per instruction (spec 40 R143). -/

namespace Sys2Proof.Machine

def exec (i : Instr) (s : State) : Host.Outcome State Fault Refusal :=
  match i with
  | .setb n1 => Sys2Proof.Machine.execSetb n1 s
  | .clrb n1 => Sys2Proof.Machine.execClrb n1 s
  | .movb n1 n2 => Sys2Proof.Machine.execMovb n1 n2 s
  | .seti n1 lit => Sys2Proof.Machine.execSeti n1 lit s
  | .movi n1 n2 => Sys2Proof.Machine.execMovi n1 n2 s
  | .inc n1 => Sys2Proof.Machine.execInc n1 s
  | .dec n1 => Sys2Proof.Machine.execDec n1 s
  | .add n1 n2 n3 => Sys2Proof.Machine.execAdd n1 n2 n3 s
  | .sub n1 n2 n3 => Sys2Proof.Machine.execSub n1 n2 n3 s
  | .mul n1 n2 n3 => Sys2Proof.Machine.execMul n1 n2 n3 s
  | .div n1 n2 n3 => Sys2Proof.Machine.execDiv n1 n2 n3 s
  | .mod n1 n2 n3 => Sys2Proof.Machine.execMod n1 n2 n3 s
  | .ifbs n1 n3 => Sys2Proof.Machine.execIfbs n1 n3 s
  | .ifbc n1 n3 => Sys2Proof.Machine.execIfbc n1 n3 s
  | .ifltl n1 lit n3 => Sys2Proof.Machine.execIfltl n1 lit n3 s
  | .ifeq n1 n2 n3 => Sys2Proof.Machine.execIfeq n1 n2 n3 s
  | .ifge n1 n2 n3 => Sys2Proof.Machine.execIfge n1 n2 n3 s
  | .ifle n1 n2 n3 => Sys2Proof.Machine.execIfle n1 n2 n3 s
  | .ifne n1 n2 n3 => Sys2Proof.Machine.execIfne n1 n2 n3 s
  | .ifgt n1 n2 n3 => Sys2Proof.Machine.execIfgt n1 n2 n3 s
  | .jmp n3 => Sys2Proof.Machine.execJmp n3 s
  | .endScan => Sys2Proof.Machine.execEnd s
  | .afwd => Sys2Proof.Machine.execAfwd s
  | .aknown => Sys2Proof.Machine.execAknown s
  | .arslv => Sys2Proof.Machine.execArslv s
  | .unrecognized op => Sys2Proof.Machine.execUnrecognized op s

end Sys2Proof.Machine
end

