-- ==== Sys2Proof/Machine/Text.lean ====
section
/-! DEFINITION. Text as bytes: 7-bit characters, lines, decimal and hexadecimal numbers (spec 30 R96, R100, R107,
R112, R117). -/

namespace Sys2Proof.Machine

/-- The bytes of a text of 7-bit characters. -/
def ascii (s : String) : List Byte := s.toList.map (fun c => BitVec.ofNat 8 c.toNat)

/-- LF. -/
def lineFeed : Byte := 0x0A
/-- CR. -/
def carriageReturn : Byte := 0x0D
/-- The space character. -/
def space : Byte := 0x20

/-- The contents of the lines of a text: each ends at LF or CR LF, and the terminator is not part of it (30 R96). A
last line with no terminator counts as a line (DESIGN CHOICE, safe: log 14). -/
def linesOf : List Byte → List (List Byte)
  | [] => []
  | b :: rest =>
    if b = lineFeed then [] :: linesOf rest
    else if b = carriageReturn ∧ rest.head? = some lineFeed then linesOf rest
    else
      match linesOf rest with
      | [] => [[b]]
      | l :: ls => (b :: l) :: ls

/-- Every byte is a 7-bit character (30 R96). -/
def sevenBit (l : List Byte) : Bool := l.all (fun b => decide (b.toNat < 0x80))

/-- The value of a decimal digit. -/
def decimalDigit (b : Byte) : Option Nat :=
  if 0x30 ≤ b.toNat ∧ b.toNat ≤ 0x39 then some (b.toNat - 0x30) else none

/-- Read the digits of a decimal number onto `acc`. -/
def decimalFrom (acc : Nat) : List Byte → Option Nat
  | [] => some acc
  | b :: rest =>
    match decimalDigit b with
    | some d => decimalFrom (10 * acc + d) rest
    | none => none

/-- One or more decimal digits and nothing else (30 R107, R112). -/
def readDecimal (l : List Byte) : Option Nat := if l = [] then none else decimalFrom 0 l

/-- A decimal number with an optional minus sign (30 R120). -/
def readSigned : List Byte → Option Int
  | [] => none
  | b :: rest => if b = 0x2D then (readDecimal rest).map (fun n => -(n : Int)) else (readDecimal (b :: rest)).map Int.ofNat

/-- The decimal digits of a number, for at most `fuel` digits above the last. -/
def decimalDigits : Nat → Nat → List Byte
  | 0, n => [BitVec.ofNat 8 (0x30 + n % 10)]
  | fuel + 1, n => if n < 10 then [BitVec.ofNat 8 (0x30 + n)]
    else decimalDigits fuel (n / 10) ++ [BitVec.ofNat 8 (0x30 + n % 10)]

/-- A number in decimal, with no leading zeros. -/
def writeDecimal (n : Nat) : List Byte := decimalDigits n n

/-- An integer in decimal. -/
def writeSigned (z : Int) : List Byte := if z < 0 then 0x2D :: writeDecimal z.natAbs else writeDecimal z.natAbs

/-- The value of a hex digit of either case (30 R100). -/
def hexDigit (b : Byte) : Option (BitVec 4) :=
  if 0x30 ≤ b.toNat ∧ b.toNat ≤ 0x39 then some (BitVec.ofNat 4 (b.toNat - 0x30))
  else if 0x41 ≤ b.toNat ∧ b.toNat ≤ 0x46 then some (BitVec.ofNat 4 (b.toNat - 0x41 + 10))
  else if 0x61 ≤ b.toNat ∧ b.toNat ≤ 0x66 then some (BitVec.ofNat 4 (b.toNat - 0x61 + 10))
  else none

/-- Bytes from pairs of hex digits, the first digit the high nibble (30 R100). -/
def readHexBytes : List Byte → Option (List Byte)
  | [] => some []
  | [_] => none
  | h :: l :: rest =>
    match hexDigit h, hexDigit l, readHexBytes rest with
    | some x, some y, some bytes => some ((x ++ y) :: bytes)
    | _, _, _ => none

/-- Read hex digits onto `acc` (30 R120). -/
def hexFrom (acc : Nat) : List Byte → Option Nat
  | [] => some acc
  | b :: rest =>
    match hexDigit b with
    | some d => hexFrom (16 * acc + d.toNat) rest
    | none => none

/-- An upper-case hex digit (30 R117). -/
def writeHexDigit (d : BitVec 4) : Byte :=
  if d.toNat < 10 then BitVec.ofNat 8 (0x30 + d.toNat) else BitVec.ofNat 8 (0x41 + (d.toNat - 10))

/-- The two hex digits of a byte, high nibble first (30 R100, R117). -/
def writeHexByte (b : Byte) : List Byte := [writeHexDigit (b.extractLsb' 4 4), writeHexDigit (b.extractLsb' 0 4)]

end Sys2Proof.Machine
end

