-- ==== Sys2Proof/Machine/Loader.lean ====
section
/-! DEFINITION. The container, the loader's checks and the encoder (spec 30 R95 to R117). -/

namespace Sys2Proof.Machine

/-- The header line (30 R98). -/
def signature : List Byte := ascii "$$LDcode"
/-- The cycle-time sentinel (30 R101, R112). -/
def cycleMark : List Byte := ascii "$$cycle"
/-- The bit-section sentinel (30 R101, R106). -/
def bitsMark : List Byte := ascii "$$bits"
/-- The integer-section sentinel (30 R101, R106). -/
def intsMark : List Byte := ascii "$$int16s"

/-- A line that ends the instruction section (30 R101). -/
def isSentinel (l : List Byte) : Bool :=
  bitsMark.isPrefixOf l || intsMark.isPrefixOf l || cycleMark.isPrefixOf l

/-- The record of an instruction line (30 R96, R99, R100). A byte above 7FH is reported before a wrong length
(DESIGN CHOICE, safe: log 15). -/
def readRecord (l : List Byte) : Except LoadError Record :=
  if sevenBit l = false then .error .badHex
  else if l.length ≠ 24 then .error .badLength
  else
    match readHexBytes l with
    | none => .error .badHex
    | some bytes =>
      match takeRecord bytes with
      | .ok (w, _) => .ok w
      | .error _ => .error .badLength

/-- The records of the instruction section and the lines of the trailing section (30 R99 to R103), after `n` records.
A line beyond the capacity is `TooLong` whatever it holds (DESIGN CHOICE, safe: log 16). -/
def readRecords (maxOps : Nat) : Nat → List (List Byte) → Except LoadError (List Record × List (List Byte))
  | _, [] => .error .truncated
  | n, l :: rest =>
    if isSentinel l then .ok ([], l :: rest)
    else if maxOps ≤ n then .error .tooLong
    else
      match readRecord l with
      | .error e => .error e
      | .ok w =>
        match readRecords maxOps (n + 1) rest with
        | .error e => .error e
        | .ok (ws, trailing) => .ok (w :: ws, trailing)

/-- The three I/O maps and the cycle time (10 R50). -/
structure HostTables where
  x : List (Option Nat)
  y : List (Option Nat)
  a : List (Option Nat)
  cycleTime : Nat
deriving DecidableEq, Repr

/-- The tables of a container that sets nothing (30 R111, R112). -/
def HostTables.empty (c : Config) : HostTables where
  x := List.replicate c.nx none
  y := List.replicate c.ny none
  a := List.replicate c.na none
  cycleTime := c.cycleDefault

/-- The value of a cycle-time line after `$$cycle`: spaces, then a decimal integer in `1..2147483647` (30 R112). -/
def readCycleTime (l : List Byte) : Option Nat :=
  match readDecimal (l.dropWhile (· == space)) with
  | some t => if 1 ≤ t ∧ t ≤ 2147483647 then some t else none
  | none => none

/-- The pin index and address of a mapping line after its letter: decimal digits, a comma, decimal digits, the
address at most 32767 (30 R107). -/
def readPinAddress (l : List Byte) : Option (Nat × Nat) :=
  match l.dropWhile (· != 0x2C) with
  | [] => none
  | _ :: address =>
    match readDecimal (l.takeWhile (· != 0x2C)), readDecimal address with
    | some n, some a => if a ≤ 32767 then some (n, a) else none
    | _, _ => none

/-- Set the entry a mapping line names (30 R107, R108). A pin index beyond the table changes nothing (R109), and a
later line overwrites an earlier one (R110). Any other line is ignored (R105). -/
def HostTables.mapLine (t : HostTables) : List Byte → HostTables
  | [] => t
  | letter :: rest =>
    match readPinAddress rest with
    | none => t
    | some (n, a) =>
      if letter = 0x58 then { t with x := t.x.set n (some a) }
      else if letter = 0x59 then { t with y := t.y.set n (some a) }
      else if letter = 0x41 then { t with a := t.a.set n (some a) }
      else t

/-- One line of the trailing section, classified by itself (30 R96, R105, R106, R112). -/
def HostTables.line (t : HostTables) (l : List Byte) : Except LoadError HostTables :=
  if sevenBit l = false then .ok t
  else if cycleMark.isPrefixOf l then
    match readCycleTime (l.drop 7) with
    | some time => .ok { t with cycleTime := time }
    | none => .error .badCycle
  else if bitsMark.isPrefixOf l || intsMark.isPrefixOf l then .ok t
  else .ok (t.mapLine l)

/-- The trailing section, line by line (30 R105, R112). -/
def HostTables.lines (t : HostTables) : List (List Byte) → Except LoadError HostTables
  | [] => .ok t
  | l :: rest =>
    match t.line l with
    | .ok t' => HostTables.lines t' rest
    | .error e => .error e

/-- The program index a conditional or `JMP` names (30 R84, R114). -/
def targetOf : Instr → Option Half
  | .ifbs _ n3 | .ifbc _ n3 | .ifltl _ _ n3 | .ifeq _ _ n3 | .ifge _ _ n3 | .ifle _ _ n3 | .ifne _ _ n3
  | .ifgt _ _ n3 | .jmp n3 => some n3
  | .setb _ | .clrb _ | .movb _ _ | .seti _ _ | .movi _ _ | .inc _ | .dec _ | .add _ _ _ | .sub _ _ _ | .mul _ _ _
  | .div _ _ _ | .mod _ _ _ | .endScan | .afwd | .aknown | .arslv | .unrecognized _ => none

/-- The number of `END` records (30 R114). -/
def endCount (c : Config) (records : List Record) : Nat :=
  records.countP (fun w => (fieldsOf c.byteOrder w).op == c.opcodeValue .endScan)

/-- The target of a record, if it has one, is below `n` (30 R114). -/
def targetFits (c : Config) (n : Nat) (w : Record) : Bool :=
  match targetOf (decode c w) with
  | some t => decide (0 ≤ t.toInt ∧ t.toInt < (n : Int))
  | none => true

/-- The well-formedness of a program that has been read (30 R114). -/
def checkProgram (c : Config) (records : List Record) : Except LoadError Unit :=
  if endCount c records = 0 then .error .noEnd
  else if 1 < endCount c records then .error .manyEnd
  else if records.all (targetFits c records.length) then .ok ()
  else .error .badTarget

/-- What a load that succeeds hands to the block and to the host (30 R115). -/
structure Image where
  records : List Record
  tables : HostTables
deriving DecidableEq, Repr

/-- Reading a container (30 R95 to R114): the first error in reading order, the well-formedness errors last. -/
def readContainer (c : Config) : Source → Except LoadError Image
  | .unreadable => .error .unreadable
  | .bytes contents =>
    match linesOf contents with
    | [] => .error .badSignature
    | header :: rest =>
      if header ≠ signature then .error .badSignature
      else
        match readRecords c.maxOps 0 rest with
        | .error e => .error e
        | .ok (records, trailing) =>
          match (HostTables.empty c).lines trailing with
          | .error e => .error e
          | .ok tables =>
            match checkProgram c records with
            | .error e => .error e
            | .ok () => .ok ⟨records, tables⟩

/-! ### The encoder (30 R117) -/

/-- The 24 hex digits of a record, byte 0 first (30 R100, R117). -/
def recordLine (w : Record) : List Byte := (List.range 12).flatMap (fun k => writeHexByte (recordByte w k))

/-- The mapping lines of one I/O map, from pin index `n`: one for every set entry, in rising pin order (30 R95, R107;
DESIGN CHOICE: log 21). -/
def mapLines (letter : Byte) : Nat → List (Option Nat) → List (List Byte)
  | _, [] => []
  | n, none :: rest => mapLines letter (n + 1) rest
  | n, some a :: rest => (letter :: (writeDecimal n ++ 0x2C :: writeDecimal a)) :: mapLines letter (n + 1) rest

/-- The lines of the container of a program (30 R117). R117 says "then any mapping lines": that they are those of every set
entry, X before Y before A, in rising pin order, is a DESIGN CHOICE (log 21). -/
def containerLines (p : Image) : List (List Byte) :=
  signature :: (p.records.map recordLine ++ (cycleMark ++ writeDecimal p.tables.cycleTime) ::
    (mapLines 0x58 0 p.tables.x ++ mapLines 0x59 0 p.tables.y ++ mapLines 0x41 0 p.tables.a))

/-- A program as a container, every line ended by LF (30 R117). -/
def writeContainer (p : Image) : List Byte := (containerLines p).flatMap (fun l => l ++ [lineFeed])

end Sys2Proof.Machine
end

