-- ==== Sys2Proof/Machine/HostOps.lean ====
section
/-! DEFINITION. The host's operations on the block and its moves (spec 10 R40 to R49, 30 R115, R116, 70 R270 to R274). -/

namespace Sys2Proof.Machine

/-! ### The operations of 10 R40 -/

/-- Reset (70 R270): every piece of block state at its reset value, program memory unspecified anew. The host's tables
return to the reset column of 10 R50 (DEDUCED, unsafe: log 13). -/
def hostReset (s : State) : State :=
  { State.initial s.cfg with
    memRdata := s.memRdata
    regRdata := s.regRdata
    loadReport := s.loadReport
    moves := s.moves
    resets := s.resets + 1
    draws := s.draws }

/-- ProgInvalidate (10 R41). In RUN a write is ignored (R49). -/
def hostProgInvalidate (s : State) : State :=
  if s.fsm = .run then s else { s with loaded := false, progLen := 0 }

/-- ProgWrite (10 R42). -/
def hostProgWrite (i : Half) (w : Record) (s : State) : State :=
  if s.fsm ≠ .run ∧ s.loaded = false ∧ i.toNat < s.cfg.maxOps then s.setSlot i.toNat w else s

/-- ProgCommit (10 R44). -/
def hostProgCommit (n : Half) (s : State) : State :=
  if s.fsm ≠ .run ∧ s.loaded = false ∧ n.toNat ≤ s.cfg.maxOps then { s with progLen := n, loaded := true } else s

/-- Start (10 R45): begins a scan, or faults with `NOT_LOADED` and a zero fault record (60 R241, R244). -/
def hostStart (s : State) : State :=
  match s.fsm with
  | .idle =>
    if s.loaded then { s with pc := 0, done := false, fellOff := false, fsm := .run }
    else enterFault .notLoaded 0 0 0 s
  | .run => s
  | .fault => s

/-- An unspecified value on `mem_rdata`: a fresh free value (10 R46, R49; log 8). -/
def drawRead (s : State) : State := { s with memRdata := Config.unspecifiedRead s.draws, draws := s.draws + 1 }

/-- MemRead (10 R46): a bit cell is zero-extended; a read outside the bank, or in RUN (R49), gives a free value. -/
def hostMemRead (bank : Bank) (a : Half) (s : State) : State :=
  if s.fsm = .run then drawRead s
  else
    match bank with
    | .bit => if inRange a s.cfg.nb then { s with memRdata := (s.bit (cellOf a)).zeroExtend 32 } else drawRead s
    | .integer => if inRange a s.cfg.ni then { s with memRdata := s.int (cellOf a) } else drawRead s

/-- MemWrite (10 R47): a bit cell takes bit 0; a write outside the bank, or in RUN (R49), has no effect. -/
def hostMemWrite (bank : Bank) (a : Half) (v : Word) (s : State) : State :=
  if s.fsm = .run then s
  else
    match bank with
    | .bit => if inRange a s.cfg.nb then s.setBit (cellOf a) (v.extractLsb' 0 1) else s
    | .integer => if inRange a s.cfg.ni then s.setInt (cellOf a) v else s

/-- RegRead (10 R33, R48), in any FSM state. -/
def hostRegRead (k : BitVec 4) (s : State) : State := { s with regRdata := s.register k }

/-- One operation of the host, in any FSM state (10 R40). -/
def applyOp (o : HostOp) (s : State) : State :=
  match o with
  | .reset => hostReset s
  | .progInvalidate => hostProgInvalidate s
  | .progWrite i w => hostProgWrite i w s
  | .progCommit n => hostProgCommit n s
  | .start => hostStart s
  | .memRead bank a => hostMemRead bank a s
  | .memWrite bank a v => hostMemWrite bank a v s
  | .regRead k => hostRegRead k s

/-! ### Loading (30 R115, R116) -/

/-- ProgWrite of each record, from slot `i` on (30 R115). -/
def writeRecords : Nat → List Record → State → State
  | _, [], s => s
  | i, w :: rest, s => writeRecords (i + 1) rest (hostProgWrite (BitVec.ofNat 16 i) w s)

/-- The host's tables after a load (30 R111, R115). -/
def adoptTables (t : HostTables) (s : State) : State :=
  { s with iomapX := t.x, iomapY := t.y, iomapA := t.a, cycleTime := t.cycleTime }

/-- The commit of a program that was read (30 R115). -/
def commitImage (p : Image) (s : State) : State :=
  { adoptTables p.tables
      (hostProgCommit (BitVec.ofNat 16 p.records.length) (writeRecords 0 p.records (hostProgInvalidate s))) with
    loadReport := .loaded }

/-- `LoadProgram` (10 R40; 30 R115, R116): one step, since nothing can come between its operations (DEDUCED, safe:
log 17). -/
def loadProgram (source : Source) (s : State) : State :=
  match readContainer s.cfg source with
  | .ok p => commitImage p s
  | .error e => { hostProgInvalidate s with loadReport := .failed e }

/-! ### The hooks and the period (10 R43, 70 R273) -/

/-- The address an I/O map gives a pin; none for a pin not mapped or beyond the table (10 R50). -/
def pinAddress (map : List (Option Nat)) (n : Nat) : Option Nat := (map[n]?).join

/-- ReadInputs as operations: a MemWrite of each mapped pin's value (10 R43). -/
def readInputsMoves (map : List (Option Nat)) : List (Nat × Bit) → List HostMove
  | [] => []
  | (n, v) :: rest =>
    match pinAddress map n with
    | some a => .op (.memWrite .bit (BitVec.ofNat 16 a) (v.zeroExtend 32)) :: readInputsMoves map rest
    | none => readInputsMoves map rest

/-- A MemRead of every mapped cell, in pin order: WriteOutputs on `IOMAP_Y` (10 R43), the analog glue on `IOMAP_A`. -/
def readMappedMoves (bank : Bank) : List (Option Nat) → List HostMove
  | [] => []
  | some a :: rest => .op (.memRead bank (BitVec.ofNat 16 a)) :: readMappedMoves bank rest
  | none :: rest => readMappedMoves bank rest

/-- Put moves before the pending ones. -/
def State.plan (s : State) (ms : List HostMove) : State := { s with moves := ms ++ s.moves }

/-- What the host may do in an FSM state: in RUN only Reset and RegRead (10 R49). -/
def HostMove.allowed (m : HostMove) (f : Fsm) : Bool :=
  match f, m with
  | .idle, _ => true
  | .fault, _ => true
  | .run, .op .reset => true
  | .run, .op (.regRead _) => true
  | .run, _ => false

/-- A move of the host, already taken off the pending list. A sequence of operations is planned as its operations; a
host stops cycling at a fault (70 R273). -/
def performMove (m : HostMove) (s : State) : State :=
  match m with
  | .op o => applyOp o s
  | .pass => s
  | .load source => loadProgram source s
  | .readInputs pins => s.plan (readInputsMoves s.iomapX pins)
  | .writeOutputs => s.plan (readMappedMoves .bit s.iomapY)
  | .readAnalog => s.plan (readMappedMoves s.cfg.analogBank s.iomapA)
  | .period pins => if s.fsm = .fault then s else s.plan [.readInputs pins, .op .start, .afterScan]
  | .afterScan => if s.fsm = .fault then s else s.plan [.writeOutputs]

end Sys2Proof.Machine
end

