-- ==== Sys2Proof/Machine/Sequencer.lean ====
section
/-! DEFINITION. Whose turn it is and what it does (spec 10 R49, 40 R130 to R134, 60 R246, R257). -/

namespace Sys2Proof.Machine

/-- What the next step does: moves to a state with no instruction run, runs an instruction, or stops. -/
inductive Action where
  | become (s : State)
  | run (i : Instr) (s : State)
  | halt (f : Fault)
deriving DecidableEq, Repr

/-- The block's turn. In RUN: the engine step of 40 R131, whose end of the slots is `pc = N` (R134). In IDLE the block
waits with all state kept (60 R257). In FAULT the engine has no step, and the machine stops (60 R246; log 10). -/
def engineTurn (s : State) : Action :=
  match s.fsm with
  | .idle => .become s
  | .fault => .halt (.blockFaulted s.faultCause)
  | .run =>
    if s.pc = s.progLen then .become s.fallOff
    else if s.pc.toNat < s.progLen.toNat then .run s.fetch s
    else .halt .fetchBeyondProgram

/-- The next step. The oldest pending move of the host is made when the FSM allows it (10 R49); otherwise it waits,
and the engine takes its step (70 R276; log 6). A `pass` gives the turn to the block, which waits in FAULT. -/
def nextAction (s : State) : Action :=
  match s.moves with
  | [] => engineTurn s
  | m :: rest =>
    if m = .pass then
      if s.fsm = .fault then .become { s with moves := rest } else engineTurn { s with moves := rest }
    else if m.allowed s.fsm then .become (performMove m { s with moves := rest })
    else engineTurn s

end Sys2Proof.Machine
end

