-- ==== Sys2Proof/Machine/Step.lean ====
section
/-! DEFINITION. One step of the machine (spec 40 R131; 10 R49). -/

namespace Sys2Proof.Machine

/-- One step: a host move, an engine step, or waiting. -/
def step (s : State) : Host.Outcome State Fault Refusal :=
  match nextAction s with
  | .become t => .next t
  | .run i t => exec i t
  | .halt f => .fault f

/-- `s` about to run the opcode-table word `w` as its next instruction (log 12). -/
def State.withFetchWord (s : State) (nbits w : Nat) : State := s.aboutToRun (BitVec.ofNat 96 (w % 2 ^ nbits))

end Sys2Proof.Machine
end

