-- ==== Sys2Proof/Machine/Asm.lean ====
section
/-! DEFINITION. The assembler syntax and the disassembly text (spec 30 R120 to R123). What the rules leave open of the
spelling is a DESIGN CHOICE, safe: log 18. -/

namespace Sys2Proof.Machine

/-- The mnemonic of a named opcode (30 R86). -/
def mnemonicText (x : Opcode) : List Byte :=
  match x with
  | .setb => ascii "SETB"
  | .clrb => ascii "CLRB"
  | .movb => ascii "MOVB"
  | .seti => ascii "SETI"
  | .movi => ascii "MOVI"
  | .inc => ascii "INC"
  | .dec => ascii "DEC"
  | .add => ascii "ADD"
  | .sub => ascii "SUB"
  | .mul => ascii "MUL"
  | .div => ascii "DIV"
  | .mod => ascii "MOD"
  | .ifbs => ascii "IFBS"
  | .ifbc => ascii "IFBC"
  | .ifltl => ascii "IFLTL"
  | .ifeq => ascii "IFEQ"
  | .ifge => ascii "IFGE"
  | .ifle => ascii "IFLE"
  | .ifne => ascii "IFNE"
  | .ifgt => ascii "IFGT"
  | .jmp => ascii "JMP"
  | .endScan => ascii "END"
  | .afwd => ascii "AFWD"
  | .aknown => ascii "AKNOWN"
  | .arslv => ascii "ARSLV"

/-! ### Assembling -/

/-- Why a text does not assemble. -/
inductive AsmError where
  | unknownMnemonic (line : Nat)
  | badOperand (line : Nat)
  | unknownLabel (line : Nat)
  | badLabel (line : Nat)
deriving DecidableEq, Repr

/-- The operand spellings of 30 R120. -/
inductive AsmOperand where
  | bit (k : Half)
  | int (k : Half)
  | literal (v : Word)
  | index (k : Half)
  | label (name : List Byte)
deriving DecidableEq, Repr

/-- A value as a 16-bit signed field, if it is one. -/
def asHalf (z : Int) : Option Half := if -32768 ≤ z ∧ z ≤ 32767 then some (BitVec.ofInt 16 z) else none

/-- A value as a 32-bit signed field, if it is one. -/
def asWord (z : Int) : Option Word := if -2147483648 ≤ z ∧ z ≤ 2147483647 then some (BitVec.ofInt 32 z) else none

/-- A literal after its `#`: `0x` and hex digits give the 32 bits themselves, anything else is a signed decimal. -/
def readLiteral (l : List Byte) : Option Word :=
  match l with
  | [] => none
  | [b] => (readSigned [b]).bind asWord
  | b0 :: b1 :: rest =>
    if b0 = 0x30 ∧ b1 = 0x78 then
      if rest = [] then none
      else (hexFrom 0 rest).bind (fun n => if n < 2 ^ 32 then some (BitVec.ofNat 32 n) else none)
    else (readSigned (b0 :: b1 :: rest)).bind asWord

/-- A letter, a digit or an underscore: the characters of a name. -/
def nameByte (b : Byte) : Bool :=
  decide ((0x30 ≤ b.toNat ∧ b.toNat ≤ 0x39) ∨ (0x41 ≤ b.toNat ∧ b.toNat ≤ 0x5A) ∨ (0x61 ≤ b.toNat ∧ b.toNat ≤ 0x7A) ∨
    b.toNat = 0x5F)

/-- A label's name. -/
def isName (l : List Byte) : Bool := !l.isEmpty && l.all nameByte

/-- The label a spelling names, if it is a name. -/
def labelOperand (l : List Byte) : Option AsmOperand := if isName l then some (.label l) else none

/-- Read one operand (30 R120). `b` or `i` and a number is an address, before it could be a label. -/
def readOperand (l : List Byte) : Option AsmOperand :=
  match l with
  | [] => none
  | c :: rest =>
    if c = 0x23 then (readLiteral rest).map .literal
    else if c = 0x40 then ((readSigned rest).bind asHalf).map .index
    else if c = 0x62 then
      match readSigned rest with
      | some z => (asHalf z).map .bit
      | none => labelOperand l
    else if c = 0x69 then
      match readSigned rest with
      | some z => (asHalf z).map .int
      | none => labelOperand l
    else labelOperand l

/-- A blank: a space or a tab. -/
def isBlank (b : Byte) : Bool := b == space || b == 0x09

/-- A text without the blanks at its two ends. -/
def trim (l : List Byte) : List Byte := ((l.dropWhile isBlank).reverse.dropWhile isBlank).reverse

/-- The pieces of a text between the bytes `sep`. -/
def splitAtByte (sep : Byte) : List Byte → List (List Byte)
  | [] => [[]]
  | b :: rest =>
    if b = sep then [] :: splitAtByte sep rest
    else
      match splitAtByte sep rest with
      | [] => [[b]]
      | l :: ls => (b :: l) :: ls

/-- The operands of a statement: nothing, or pieces between commas. -/
def readOperands (l : List Byte) : Option (List AsmOperand) :=
  if trim l = [] then some [] else (splitAtByte 0x2C l).mapM (fun piece => readOperand (trim piece))

/-- A line of source with its comment taken off, as its label and its statement (30 R120). -/
def splitLabel (l : List Byte) : Option (List Byte) × List Byte :=
  match l.dropWhile (· != 0x3A) with
  | [] => (none, trim l)
  | _ :: statement => (some (trim (l.takeWhile (· != 0x3A))), trim statement)

/-- A line without its comment, from `;` on (30 R120). -/
def stripComment (l : List Byte) : List Byte := trim (l.takeWhile (· != 0x3B))

/-- The target an operand stands for: an index, or a label's (30 R120). -/
def targetField (labels : List (List Byte × Nat)) : AsmOperand → Option Half
  | .index k => some k
  | .label name => (labels.lookup name).bind (fun n => asHalf (n : Int))
  | .bit _ | .int _ | .literal _ => none

/-- The instruction of a mnemonic with its operands in order (30 R120). -/
def instrOfOperands (labels : List (List Byte × Nat)) (x : Opcode) (os : List AsmOperand) : Option Instr :=
  match x, os with
  | .setb, [.bit n1] => some (.setb n1)
  | .clrb, [.bit n1] => some (.clrb n1)
  | .movb, [.bit n1, .bit n2] => some (.movb n1 n2)
  | .seti, [.int n1, .literal v] => some (.seti n1 v)
  | .movi, [.int n1, .int n2] => some (.movi n1 n2)
  | .inc, [.int n1] => some (.inc n1)
  | .dec, [.int n1] => some (.dec n1)
  | .add, [.int n1, .int n2, .int n3] => some (.add n1 n2 n3)
  | .sub, [.int n1, .int n2, .int n3] => some (.sub n1 n2 n3)
  | .mul, [.int n1, .int n2, .int n3] => some (.mul n1 n2 n3)
  | .div, [.int n1, .int n2, .int n3] => some (.div n1 n2 n3)
  | .mod, [.int n1, .int n2, .int n3] => some (.mod n1 n2 n3)
  | .ifbs, [.bit n1, t] => (targetField labels t).map (.ifbs n1 ·)
  | .ifbc, [.bit n1, t] => (targetField labels t).map (.ifbc n1 ·)
  | .ifltl, [.int n1, .literal v, t] => (targetField labels t).map (.ifltl n1 v ·)
  | .ifeq, [.int n1, .int n2, t] => (targetField labels t).map (.ifeq n1 n2 ·)
  | .ifge, [.int n1, .int n2, t] => (targetField labels t).map (.ifge n1 n2 ·)
  | .ifle, [.int n1, .int n2, t] => (targetField labels t).map (.ifle n1 n2 ·)
  | .ifne, [.int n1, .int n2, t] => (targetField labels t).map (.ifne n1 n2 ·)
  | .ifgt, [.int n1, .int n2, t] => (targetField labels t).map (.ifgt n1 n2 ·)
  | .jmp, [t] => (targetField labels t).map (.jmp ·)
  | .endScan, [] => some .endScan
  | .afwd, [] => some .afwd
  | .aknown, [] => some .aknown
  | .arslv, [] => some .arslv
  | _, _ => none

/-- The record of a statement (30 R120, R121): `NOP` is `ARSLV`, `GOTO` is `JMP`, `.op` writes the `op` field alone. -/
def assembleStatement (c : Config) (labels : List (List Byte × Nat)) (line : Nat) (l : List Byte) :
    Except AsmError Record :=
  let word := l.takeWhile (fun b => !isBlank b)
  let rest := l.dropWhile (fun b => !isBlank b)
  if word = ascii ".op" then
    match readDecimal (trim rest) with
    | some v => if v < 2 ^ 16 then .ok (recordOf c.byteOrder ⟨BitVec.ofNat 16 v, 0, 0, 0, 0⟩) else .error (.badOperand line)
    | none => .error (.badOperand line)
  else
    let opcode :=
      if word = ascii "NOP" then some .arslv
      else if word = ascii "GOTO" then some .jmp
      else Opcode.all.find? (fun x => mnemonicText x == word)
    match opcode with
    | none => .error (.unknownMnemonic line)
    | some x =>
      match readOperands rest with
      | none => .error (.badOperand line)
      | some os =>
        if os.any (fun o => match o with
            | .label name => (labels.lookup name).isNone
            | .bit _ | .int _ | .literal _ | .index _ => false) then .error (.unknownLabel line)
        else
          match instrOfOperands labels x os with
          | some i => .ok (encode c i)
          | none => .error (.badOperand line)

/-- The lines that hold an instruction, with their numbers, labels and statements; blank lines are passed over. -/
def sourceLines : Nat → List (List Byte) → List (Nat × Option (List Byte) × List Byte)
  | _, [] => []
  | n, l :: rest =>
    if stripComment l = [] then sourceLines (n + 1) rest
    else (n, splitLabel (stripComment l)) :: sourceLines (n + 1) rest

/-- The program index each label stands for (30 R120): a label is a name, and is given once. -/
def labelTable : Nat → List (Nat × Option (List Byte) × List Byte) → Except AsmError (List (List Byte × Nat))
  | _, [] => .ok []
  | i, (_, none, _) :: rest => labelTable (i + 1) rest
  | i, (line, some name, _) :: rest =>
    match labelTable (i + 1) rest with
    | .error e => .error e
    | .ok table =>
      if isName name && (table.lookup name).isNone then .ok ((name, i) :: table) else .error (.badLabel line)

/-- The records of the statements, in order. -/
def assembleLines (c : Config) (labels : List (List Byte × Nat)) :
    List (Nat × Option (List Byte) × List Byte) → Except AsmError (List Record)
  | [] => .ok []
  | (line, _, statement) :: rest =>
    match assembleStatement c labels line statement with
    | .error e => .error e
    | .ok w =>
      match assembleLines c labels rest with
      | .error e => .error e
      | .ok ws => .ok (w :: ws)

/-- Assemble a source text (30 R120, R121). -/
def assemble (c : Config) (text : List Byte) : Except AsmError (List Record) :=
  let lines := sourceLines 1 (linesOf text)
  match labelTable 0 lines with
  | .error e => .error e
  | .ok labels => assembleLines c labels lines

/-! ### Disassembling (30 R122, R123) -/

/-- `bit[k]`. -/
def bitText (k : Half) : List Byte := ascii "bit[" ++ writeSigned k.toInt ++ ascii "]"

/-- `int[k]`. -/
def intText (k : Half) : List Byte := ascii "int[" ++ writeSigned k.toInt ++ ascii "]"

/-- `int[k] := int[m] <op> int[t]`. -/
def arithmeticText (k m t : Half) (op : String) : List Byte :=
  intText k ++ ascii " := " ++ intText m ++ ascii op ++ intText t

/-- `unless <condition> goto t`. -/
def unlessText (condition : List Byte) (t : Half) : List Byte :=
  ascii "unless " ++ condition ++ ascii " goto " ++ writeSigned t.toInt

/-- `unless int[k] <rel> int[m] goto t`. -/
def compareText (k m t : Half) (rel : String) : List Byte := unlessText (intText k ++ ascii rel ++ intText m) t

/-- The disassembly text of an instruction (30 R122). -/
def instrText (i : Instr) : List Byte :=
  match i with
  | .setb k => bitText k ++ ascii " := 1"
  | .clrb k => bitText k ++ ascii " := 0"
  | .movb k m => bitText k ++ ascii " := " ++ bitText m
  | .seti k v => intText k ++ ascii " := " ++ writeSigned v.toInt
  | .movi k m => intText k ++ ascii " := " ++ intText m
  | .inc k => intText k ++ ascii " := " ++ intText k ++ ascii " + 1"
  | .dec k => intText k ++ ascii " := " ++ intText k ++ ascii " - 1"
  | .add k m t => arithmeticText k m t " + "
  | .sub k m t => arithmeticText k m t " - "
  | .mul k m t => arithmeticText k m t " * "
  | .div k m t => arithmeticText k m t " / "
  | .mod k m t => arithmeticText k m t " % "
  | .ifbs k t => unlessText (bitText k ++ ascii " = 1") t
  | .ifbc k t => unlessText (bitText k ++ ascii " = 0") t
  | .ifltl k v t => unlessText (intText k ++ ascii " < " ++ writeSigned v.toInt) t
  | .ifeq k m t => compareText k m t " = "
  | .ifge k m t => compareText k m t " >= "
  | .ifle k m t => compareText k m t " <= "
  | .ifne k m t => compareText k m t " != "
  | .ifgt k m t => compareText k m t " > "
  | .jmp t => ascii "goto " ++ writeSigned t.toInt
  | .endScan => ascii "end"
  | .afwd => ascii "(forward-address alloc)"
  | .aknown => ascii "(known-address alloc)"
  | .arslv => ascii "(forward-address resolved)"
  | .unrecognized op => ascii "bad code op=" ++ writeDecimal op.toNat

/-- The lines of the records, each with its index and a colon before it (30 R122). -/
def recordTexts (c : Config) : Nat → List Record → List (List Byte)
  | _, [] => []
  | n, w :: rest => (writeDecimal n ++ ascii ": " ++ instrText (decode c w)) :: recordTexts c (n + 1) rest

/-- How many records are unrecognized, the disassembler's "bad codes" (30 R123). -/
def badCodes (c : Config) (records : List Record) : Nat := records.countP (fun w => (decode c w).opcode.isNone)

/-- The disassembly of a program: a line a record, and one diagnostic line if there are bad codes (30 R122, R123). -/
def disassemble (c : Config) (records : List Record) : List (List Byte) :=
  recordTexts c 0 records ++
    if badCodes c records = 0 then [] else [writeDecimal (badCodes c records) ++ ascii " bad code(s)"]

end Sys2Proof.Machine
end

