-- ==== Sys2Proof/Machine/Scan.lean ====
section
/-! DEFINITION. The end of a scan, and running a scan under fuel (spec 40 R141, R142). -/

namespace Sys2Proof.Machine

/-- How a scan has ended (40 R142). -/
inductive ScanEnd where
  | atEnd
  | fellOff
  | faulted
deriving DecidableEq, Repr

/-- The end of the last scan: none while it runs, and none before the first one (40 R142). -/
def State.scanEnd (s : State) : Option ScanEnd :=
  match s.fsm with
  | .run => none
  | .idle => if s.done then some (if s.fellOff then .fellOff else .atEnd) else none
  | .fault => some .faulted

/-- The first state in which FSM is not RUN, within `fuel` steps; none means "not ended" (40 R141). -/
def runScan : Nat → State → Option State
  | 0, s => if s.fsm = .run then none else some s
  | fuel + 1, s =>
    if s.fsm = .run then
      match step s with
      | .next t => runScan fuel t
      | .fault _ => none
      | .refused _ => none
    else some s

end Sys2Proof.Machine
end

