-- ==== Sys2Proof/Safety.lean ====
section
/-! DEFINITION. The terms the claims use: operands in range, what an instruction stores, what a fault writes, whose turn
it is, and the invariant of the machine. -/

namespace Sys2Proof.Safety

open Sys2Proof.Machine

/-! ### Operands -/

/-- `0 <= a < size` for an `s16` value (20 R61). -/
abbrev Valid (a : Half) (size : Nat) : Prop := 0 ≤ a.toInt ∧ a.toInt < (size : Int)

/-- Every opcode-table fact of one named opcode: its reference number, and that every word whose `op` field is its
number decodes to it with the fields its form uses, whatever the other fields hold (30 R84, R86, R87). -/
abbrev EncodedAs (x : Opcode) (reference : Half) (build : Fields → Instr) : Prop :=
  Config.reference.opcodeValue x = reference ∧
  ∀ (c : Config) (w : Record), c.Admissible → (fieldsOf c.byteOrder w).op = c.opcodeValue x →
    decode c w = build (fieldsOf c.byteOrder w)

/-! ### Effects -/

/-- From `s` to `t`: bit cell `a` holds `v`, every other bit cell is as before, `pc` is advanced by 1, and every other
register and memory is as before. -/
abbrev StoresBit (a : Nat) (v : Bit) (s t : State) : Prop :=
  t.bit a = v ∧ (∀ b, b ≠ a → t.bit b = s.bit b) ∧ t = { s with pc := s.pc + 1, bits := t.bits }

/-- From `s` to `t`: integer cell `a` holds `v`, every other integer cell is as before, `pc` is advanced by 1, and every
other register and memory is as before. -/
abbrev StoresInt (a : Nat) (v : Word) (s t : State) : Prop :=
  t.int a = v ∧ (∀ b, b ≠ a → t.int b = s.int b) ∧ t = { s with pc := s.pc + 1, ints := t.ints }

/-- The state after `raise Fault(cause, arg)` by the instruction at `pc` whose `op` field is `op`: the FSM and the
fault record are written, and nothing else (60 R244). -/
abbrev faultState (cause : FaultCause) (op arg : Half) (s : State) : State :=
  { s with fsm := .fault, faultCause := cause, faultPc := s.pc, faultOp := op, faultArg := arg.signExtend 32 }

/-- `i` in state `s` takes the fault `cause` with the offending field `arg`, as opcode `x`. -/
abbrev TakesFault (i : Instr) (s : State) (x : Opcode) (cause : FaultCause) (arg : Half) : Prop :=
  exec i s = .next (faultState cause (s.cfg.opcodeValue x) arg s)

/-- `i` in state `s` falls through when `cond` holds and jumps to `n3` when it does not, changing nothing but `pc`
(43 R200). -/
abbrev Unless (cond : Prop) (i : Instr) (s : State) (n3 : Half) : Prop :=
  (cond → exec i s = .next { s with pc := s.pc + 1 }) ∧ (¬ cond → exec i s = .next { s with pc := n3 })

/-- The faults of the forms with three integer addresses, the first in field order (40 R137, R139). -/
abbrev FaultsI3 (i : Instr) (x : Opcode) (s : State) (n1 n2 n3 : Half) : Prop :=
  (¬ Valid n1 s.cfg.ni → TakesFault i s x .intAddr n1) ∧
  (Valid n1 s.cfg.ni → ¬ Valid n2 s.cfg.ni → TakesFault i s x .intAddr n2) ∧
  (Valid n1 s.cfg.ni → Valid n2 s.cfg.ni → ¬ Valid n3 s.cfg.ni → TakesFault i s x .intAddr n3)

/-- The faults of the forms with a bit address and a target (40 R137 to R139). -/
abbrev FaultsCB (i : Instr) (x : Opcode) (s : State) (n1 n3 : Half) : Prop :=
  (¬ Valid n1 s.cfg.nb → TakesFault i s x .bitAddr n1) ∧
  (Valid n1 s.cfg.nb → ¬ Valid n3 s.progLen.toNat → TakesFault i s x .jumpTarget n3)

/-- The faults of the forms with two integer addresses and a target (40 R137 to R139). -/
abbrev FaultsCI (i : Instr) (x : Opcode) (s : State) (n1 n2 n3 : Half) : Prop :=
  (¬ Valid n1 s.cfg.ni → TakesFault i s x .intAddr n1) ∧
  (Valid n1 s.cfg.ni → ¬ Valid n2 s.cfg.ni → TakesFault i s x .intAddr n2) ∧
  (Valid n1 s.cfg.ni → Valid n2 s.cfg.ni → ¬ Valid n3 s.progLen.toNat → TakesFault i s x .jumpTarget n3)

/-- The one data cell an instruction may write: its `n1` cell, in the bank its form names (30 R84); none for the
conditionals, `JMP`, `END`, the markers and unrecognized opcodes. -/
def destination : Instr → Option (Bank × Nat)
  | .setb n1 | .clrb n1 | .movb n1 _ => some (.bit, cellOf n1)
  | .seti n1 _ | .movi n1 _ | .inc n1 | .dec n1 | .add n1 _ _ | .sub n1 _ _ | .mul n1 _ _ | .div n1 _ _
  | .mod n1 _ _ => some (.integer, cellOf n1)
  | .ifbs _ _ | .ifbc _ _ | .ifltl _ _ _ | .ifeq _ _ _ | .ifge _ _ _ | .ifle _ _ _ | .ifne _ _ _ | .ifgt _ _ _
  | .jmp _ | .endScan | .afwd | .aknown | .arslv | .unrecognized _ => none

/-- The `op` field of an instruction under a numbering. -/
def opField (c : Config) (i : Instr) : Half := (i.fields c).op

/-- The oldest pending move of the host is a Reset. -/
abbrev ResetComes (s : State) : Prop := ∃ rest, s.moves = .op .reset :: rest

/-! ### Turns -/

/-- The engine has the next step: a scan runs and the host has no move it may make now (10 R49). -/
abbrev EnginesTurn (s : State) : Prop :=
  s.fsm = .run ∧ ∀ m rest, s.moves = m :: rest → m ≠ .pass ∧ m.allowed .run = false

/-- The program in the slots below `N` has every jump target inside the program (30 R114). -/
abbrev TargetsFit (s : State) : Prop :=
  ∀ i, i < s.progLen.toNat → targetFits s.cfg s.progLen.toNat (s.slot i) = true

/-- A move of a host that writes or commits program memory itself, past the loader and its checks (10 R42, R44). -/
abbrev ProgramsByHand (m : HostMove) : Prop := (∃ i w, m = .op (.progWrite i w)) ∨ ∃ n, m = .op (.progCommit n)

/-! ### The invariant -/

/-- An I/O map of a given capacity whose addresses are field values (10 R50, 30 R107). -/
abbrev MapOk (m : List (Option Nat)) (size : Nat) : Prop :=
  m.length = size ∧ ∀ e ∈ m, e.getD 0 ≤ 32767

/-- What holds of every state a run from reset reaches, whatever the host does: the configuration is admissible
(00 R6), the memories are canonical and exist (10 R34 to R36), `N` is at most `MAX_OPS` (10 R23) and 0 while nothing is
loaded (10 R41), a running scan has a loaded program, `pc <= N` (40 R132) and neither end bit (10 R45), a fault cause is
held exactly in FAULT (10 R30) with a zero record otherwise (10 R31), `FELL_OFF` comes with `DONE` (10 R29), no
engine fault leaves `DONE` set (10 R28), `UNK` says that something was counted (10 R32), and the host's tables are
within their ranges (10 R50). -/
abbrev Consistent (s : State) : Prop :=
  s.cfg.Admissible ∧
  Memory.wf s = true ∧
  s.progLen.toNat ≤ s.cfg.maxOps ∧
  (s.loaded = false → s.progLen = 0) ∧
  (s.fsm = .run → s.loaded = true ∧ s.pc.toNat ≤ s.progLen.toNat ∧ s.done = false ∧ s.fellOff = false) ∧
  (s.fsm = .fault ↔ s.faultCause ≠ .none) ∧
  (s.faultCause = .none → s.faultPc = 0 ∧ s.faultOp = 0 ∧ s.faultArg = 0) ∧
  (s.fellOff = true → s.done = true) ∧
  (s.fsm = .fault → s.faultCause ≠ .notLoaded → s.done = false) ∧
  (s.unk = false ↔ s.unkCount = 0) ∧
  (s.unk = false → s.unkLast = 0) ∧
  MapOk s.iomapX s.cfg.nx ∧ MapOk s.iomapY s.cfg.ny ∧ MapOk s.iomapA s.cfg.na ∧
  (1 ≤ s.cycleTime ∧ s.cycleTime ≤ 2147483647)

/-! ### The spec's example records -/

/-- A record from its bytes, byte 0 first (30 R80). -/
def recordFromBytes (bytes : List Byte) : Option Record :=
  match takeRecord bytes with
  | .ok (w, []) => some w
  | .ok (_, _ :: _) => none
  | .error _ => none

/-- What a record's bytes decode to under the reference parameters. -/
def decodesTo (bytes : List Byte) (i : Instr) : Prop := (recordFromBytes bytes).map (decode Config.reference) = some i

end Sys2Proof.Safety
end

