-- ==== Sys2Proof/Certificates/Slice0/Obligations.lean ====
section
/-! DEFINITION. The statements about the model, for the provers. -/

open Sys2Proof Sys2Proof.Machine Sys2Proof.Safety

/-! ### Encoding -/

/-- Every well-formed instruction, encoded under any admissible numbering and either byte order, decodes to itself
(30 R80 to R89). -/
def Obligations.DecodeOfEncodeIsTheInstruction : Prop :=
  ∀ (c : Config) (i : Instr), c.Admissible → i.wellFormed c = true → decode c (encode c i) = i

/-- A record is made of its five fields, no bit is lost, under `LE` they are the bits of 30 R81, and under `BE` the first
byte of each field is its most significant (30 R82). The layout is the spec's decision D2, the byte order a parameter
(decision D3). -/
def Obligations.RecordIsMadeOfItsFields : Prop :=
  ∀ (bo : ByteOrder) (w : Record), recordOf bo (fieldsOf bo w) = w ∧
    fieldsOf .le w = ⟨w.extractLsb' 0 16, w.extractLsb' 16 16, w.extractLsb' 32 16, w.extractLsb' 48 16,
      w.extractLsb' 64 32⟩ ∧
    fieldsOf .be w = ⟨w.extractLsb' 0 8 ++ w.extractLsb' 8 8, w.extractLsb' 16 8 ++ w.extractLsb' 24 8,
      w.extractLsb' 32 8 ++ w.extractLsb' 40 8, w.extractLsb' 48 8 ++ w.extractLsb' 56 8,
      w.extractLsb' 64 8 ++ w.extractLsb' 72 8 ++ w.extractLsb' 80 8 ++ w.extractLsb' 88 8⟩

/-- 30 R87: the opcode is the named one whose number the `op` field holds, and unrecognized if there is none; as match
and mask, `op` is selected by the bits of bytes 0-1, which under `LE` are the number zero-extended. -/
def Obligations.OpFieldAloneSelectsTheOpcode : Prop :=
  ∀ (c : Config) (w : Record), c.Admissible →
    (∀ x, (decode c w).opcode = some x ↔ c.opcodeValue x = (fieldsOf c.byteOrder w).op) ∧
    ((∀ x, c.opcodeValue x ≠ (fieldsOf c.byteOrder w).op) →
      decode c w = .unrecognized (fieldsOf c.byteOrder w).op) ∧
    (∀ x, (decode c w).opcode = some x ↔ w &&& 0xFFFF = recordOf c.byteOrder ⟨c.opcodeValue x, 0, 0, 0, 0⟩) ∧
    (c.byteOrder = .le → ∀ x, recordOf c.byteOrder ⟨c.opcodeValue x, 0, 0, 0, 0⟩ = (c.opcodeValue x).zeroExtend 96)

/-- Writing 0 in the fields an instruction does not use leaves the same instruction (30 R89, decision D10). -/
def Obligations.ReencodingKeepsTheInstruction : Prop :=
  ∀ (c : Config) (w : Record), c.Admissible →
    (decode c w).wellFormed c = true ∧ decode c (encode c (decode c w)) = decode c w

/-- The example records of 30 R91 and 95 L2.1 decode to the instructions they stand for. -/
def Obligations.ExampleRecordsDecode : Prop :=
  decodesTo [0x01, 0, 0, 0, 0, 0, 0, 0, 0, 0, 0, 0] (.setb 0) ∧
  decodesTo [0x16, 0, 0, 0, 0, 0, 0, 0, 0, 0, 0, 0] .endScan ∧
  decodesTo [0x04, 0, 0, 0, 0, 0, 0, 0, 0x05, 0, 0, 0] (.seti 0 5) ∧
  decodesTo [0x04, 0, 0x03, 0, 0, 0, 0, 0, 0xFF, 0xFF, 0xFF, 0xFF] (.seti 3 (BitVec.ofInt 32 (-1))) ∧
  decodesTo [0x0B, 0, 0x02, 0, 0, 0, 0x01, 0, 0, 0, 0, 0] (.div 2 0 1) ∧
  decodesTo [0x0D, 0, 0x01, 0, 0, 0, 0x05, 0, 0, 0, 0, 0] (.ifbs 1 5) ∧
  decodesTo [0x01, 0, 0xFF, 0xFF, 0, 0, 0, 0, 0, 0, 0, 0] (.setb (BitVec.ofInt 16 (-1))) ∧
  decodesTo [0x1A, 0, 0, 0, 0, 0, 0, 0, 0, 0, 0, 0] (.unrecognized 26)

/-- A program that passes the loader's checks, written as a container and read back, gives the same records, I/O maps
and cycle time (30 R117, decision D4; the property L1.1). That the I/O maps come back rests on the model's choice that the
encoder writes every set entry (log 21). -/
def Obligations.ContainerRoundTrips : Prop :=
  ∀ (c : Config) (p : Image), c.Admissible → p.records.length ≤ c.maxOps → checkProgram c p.records = .ok () →
    MapOk p.tables.x c.nx → MapOk p.tables.y c.ny → MapOk p.tables.a c.na →
    1 ≤ p.tables.cycleTime → p.tables.cycleTime ≤ 2147483647 →
    readContainer c (.bytes (writeContainer p)) = .ok p

/-- Lines ended by CR LF are the lines ended by LF, for contents that hold neither (30 R96, decision D4; L2.8). -/
def Obligations.LineEndingsMakeNoDifference : Prop :=
  ∀ ls : List (List Byte), (∀ l ∈ ls, lineFeed ∉ l ∧ carriageReturn ∉ l) →
    linesOf (ls.flatMap (fun l => l ++ [lineFeed])) = ls ∧
    linesOf (ls.flatMap (fun l => l ++ [carriageReturn, lineFeed])) = ls

/-! ### Steps -/

/-- When the engine has the turn and `pc < N`, the step is `exec` of the decoded word at `pc`; a host that passes gives
the turn and its move is used up (40 R131; the pending moves are the model's, log 5 and 6). -/
def Obligations.StepRunsTheDecodedInstruction : Prop :=
  (∀ s : State, EnginesTurn s → s.pc.toNat < s.progLen.toNat →
    step s = exec (decode s.cfg (s.slot s.pc.toNat)) s) ∧
  (∀ (s : State) (rest : List HostMove), s.fsm = .run → s.moves = .pass :: rest → s.pc.toNat < s.progLen.toNat →
    step s = exec (decode s.cfg (s.slot s.pc.toNat)) { s with moves := rest })

/-- At `pc = N` the engine step ends the scan with `DONE` and `FELL_OFF`, and `pc` stays (40 R134, decision D18). -/
def Obligations.ScanEndsAtTheLastSlot : Prop :=
  ∀ s : State, EnginesTurn s → s.pc = s.progLen →
    step s = .next { s with done := true, fellOff := true, fsm := .idle }

/-- A word placed for the next fetch is the next instruction run (model: log 12). -/
def Obligations.PlacedWordRunsNext : Prop :=
  ∀ (s : State) (nbits w : Nat), s.pc.toNat < 65535 →
    step (s.withFetchWord nbits w) =
      exec (decode s.cfg (BitVec.ofNat 96 (w % 2 ^ nbits))) (s.withFetchWord nbits w)

/-! ### Bit assignment -/

/-- 41 R160. -/
def Obligations.SetbWritesOne : Prop :=
  EncodedAs .setb 1 (fun f => .setb f.n1) ∧
  ∀ (s : State) (n1 : Half),
    (Valid n1 s.cfg.nb → ∃ t, exec (.setb n1) s = .next t ∧ StoresBit (cellOf n1) 1 s t) ∧
    (¬ Valid n1 s.cfg.nb → TakesFault (.setb n1) s .setb .bitAddr n1)

/-- 41 R161. -/
def Obligations.ClrbWritesZero : Prop :=
  EncodedAs .clrb 2 (fun f => .clrb f.n1) ∧
  ∀ (s : State) (n1 : Half),
    (Valid n1 s.cfg.nb → ∃ t, exec (.clrb n1) s = .next t ∧ StoresBit (cellOf n1) 0 s t) ∧
    (¬ Valid n1 s.cfg.nb → TakesFault (.clrb n1) s .clrb .bitAddr n1)

/-- 41 R162. -/
def Obligations.MovbCopiesTheSourceBit : Prop :=
  EncodedAs .movb 3 (fun f => .movb f.n1 f.n2) ∧
  ∀ (s : State) (n1 n2 : Half),
    (Valid n1 s.cfg.nb → Valid n2 s.cfg.nb →
      ∃ t, exec (.movb n1 n2) s = .next t ∧ StoresBit (cellOf n1) (s.bit (cellOf n2)) s t) ∧
    (¬ Valid n1 s.cfg.nb → TakesFault (.movb n1 n2) s .movb .bitAddr n1) ∧
    (Valid n1 s.cfg.nb → ¬ Valid n2 s.cfg.nb → TakesFault (.movb n1 n2) s .movb .bitAddr n2)

/-! ### Integer assignment -/

/-- 42 R180. -/
def Obligations.SetiWritesTheLiteral : Prop :=
  EncodedAs .seti 4 (fun f => .seti f.n1 f.lit) ∧
  ∀ (s : State) (n1 : Half) (lit : Word),
    (Valid n1 s.cfg.ni → ∃ t, exec (.seti n1 lit) s = .next t ∧ StoresInt (cellOf n1) lit s t) ∧
    (¬ Valid n1 s.cfg.ni → TakesFault (.seti n1 lit) s .seti .intAddr n1)

/-- 42 R181. -/
def Obligations.MoviCopiesTheSourceCell : Prop :=
  EncodedAs .movi 5 (fun f => .movi f.n1 f.n2) ∧
  ∀ (s : State) (n1 n2 : Half),
    (Valid n1 s.cfg.ni → Valid n2 s.cfg.ni →
      ∃ t, exec (.movi n1 n2) s = .next t ∧ StoresInt (cellOf n1) (s.int (cellOf n2)) s t) ∧
    (¬ Valid n1 s.cfg.ni → TakesFault (.movi n1 n2) s .movi .intAddr n1) ∧
    (Valid n1 s.cfg.ni → ¬ Valid n2 s.cfg.ni → TakesFault (.movi n1 n2) s .movi .intAddr n2)

/-- 42 R182: the greatest value becomes the least, every other value is one more. -/
def Obligations.IncAddsOne : Prop :=
  EncodedAs .inc 6 (fun f => .inc f.n1) ∧
  ∀ (s : State) (n1 : Half),
    (Valid n1 s.cfg.ni → ∃ t v, exec (.inc n1) s = .next t ∧ StoresInt (cellOf n1) v s t ∧
      v.toInt = if (s.int (cellOf n1)).toInt = 2147483647 then -2147483648 else (s.int (cellOf n1)).toInt + 1) ∧
    (¬ Valid n1 s.cfg.ni → TakesFault (.inc n1) s .inc .intAddr n1)

/-- 42 R183: the least value becomes the greatest, every other value is one less. -/
def Obligations.DecSubtractsOne : Prop :=
  EncodedAs .dec 7 (fun f => .dec f.n1) ∧
  ∀ (s : State) (n1 : Half),
    (Valid n1 s.cfg.ni → ∃ t v, exec (.dec n1) s = .next t ∧ StoresInt (cellOf n1) v s t ∧
      v.toInt = if (s.int (cellOf n1)).toInt = -2147483648 then 2147483647 else (s.int (cellOf n1)).toInt - 1) ∧
    (¬ Valid n1 s.cfg.ni → TakesFault (.dec n1) s .dec .intAddr n1)

/-! ### Arithmetic -/

/-- 42 R184. -/
def Obligations.AddWritesTheWrappedSum : Prop :=
  EncodedAs .add 8 (fun f => .add f.n1 f.n2 f.n3) ∧
  ∀ (s : State) (n1 n2 n3 : Half),
    (Valid n1 s.cfg.ni → Valid n2 s.cfg.ni → Valid n3 s.cfg.ni →
      ∃ t, exec (.add n1 n2 n3) s = .next t ∧
        StoresInt (cellOf n1) (wrap32 ((s.int (cellOf n2)).toInt + (s.int (cellOf n3)).toInt)) s t) ∧
    FaultsI3 (.add n1 n2 n3) .add s n1 n2 n3

/-- 42 R185. -/
def Obligations.SubWritesTheWrappedDifference : Prop :=
  EncodedAs .sub 9 (fun f => .sub f.n1 f.n2 f.n3) ∧
  ∀ (s : State) (n1 n2 n3 : Half),
    (Valid n1 s.cfg.ni → Valid n2 s.cfg.ni → Valid n3 s.cfg.ni →
      ∃ t, exec (.sub n1 n2 n3) s = .next t ∧
        StoresInt (cellOf n1) (wrap32 ((s.int (cellOf n2)).toInt - (s.int (cellOf n3)).toInt)) s t) ∧
    FaultsI3 (.sub n1 n2 n3) .sub s n1 n2 n3

/-- 42 R186. -/
def Obligations.MulWritesTheWrappedProduct : Prop :=
  EncodedAs .mul 10 (fun f => .mul f.n1 f.n2 f.n3) ∧
  ∀ (s : State) (n1 n2 n3 : Half),
    (Valid n1 s.cfg.ni → Valid n2 s.cfg.ni → Valid n3 s.cfg.ni →
      ∃ t, exec (.mul n1 n2 n3) s = .next t ∧
        StoresInt (cellOf n1) (wrap32 ((s.int (cellOf n2)).toInt * (s.int (cellOf n3)).toInt)) s t) ∧
    FaultsI3 (.mul n1 n2 n3) .mul s n1 n2 n3

/-- `DIV` (42 R174, R187): the quotient truncated toward zero, wrapped; a zero divisor changes nothing but `pc`. That it
truncates is the spec's own supply "from general knowledge" (93 G1). -/
def Obligations.DivWritesTheTruncatedQuotient : Prop :=
  EncodedAs .div 11 (fun f => .div f.n1 f.n2 f.n3) ∧
  ∀ (s : State) (n1 n2 n3 : Half),
    (Valid n1 s.cfg.ni → Valid n2 s.cfg.ni → Valid n3 s.cfg.ni → s.int (cellOf n3) ≠ 0 →
      ∃ t, exec (.div n1 n2 n3) s = .next t ∧
        StoresInt (cellOf n1) (wrap32 (Int.tdiv (s.int (cellOf n2)).toInt (s.int (cellOf n3)).toInt)) s t) ∧
    (Valid n1 s.cfg.ni → Valid n2 s.cfg.ni → Valid n3 s.cfg.ni → s.int (cellOf n3) = 0 →
      exec (.div n1 n2 n3) s = .next { s with pc := s.pc + 1 }) ∧
    FaultsI3 (.div n1 n2 n3) .div s n1 n2 n3

/-- `MOD` (42 R175, R188): the remainder of the truncated quotient; a zero divisor changes nothing but `pc`. Its sign is
the spec's own supply "from general knowledge" (93 G2). -/
def Obligations.ModWritesTheRemainder : Prop :=
  EncodedAs .mod 12 (fun f => .mod f.n1 f.n2 f.n3) ∧
  ∀ (s : State) (n1 n2 n3 : Half),
    (Valid n1 s.cfg.ni → Valid n2 s.cfg.ni → Valid n3 s.cfg.ni → s.int (cellOf n3) ≠ 0 →
      ∃ t v, exec (.mod n1 n2 n3) s = .next t ∧ StoresInt (cellOf n1) v s t ∧
        v.toInt = Int.tmod (s.int (cellOf n2)).toInt (s.int (cellOf n3)).toInt) ∧
    (Valid n1 s.cfg.ni → Valid n2 s.cfg.ni → Valid n3 s.cfg.ni → s.int (cellOf n3) = 0 →
      exec (.mod n1 n2 n3) s = .next { s with pc := s.pc + 1 }) ∧
    FaultsI3 (.mod n1 n2 n3) .mod s n1 n2 n3

/-- `wrap32` gives the one `s32` value congruent to its argument modulo `2^32` (00 R7), and sums, differences and
products of cells wrap as two's complement does (42 R171 to R173, R177, decision D14). -/
def Obligations.AluResultsWrap : Prop :=
  (∀ z : Int, -2147483648 ≤ (wrap32 z).toInt ∧ (wrap32 z).toInt < 2147483648 ∧
    (4294967296 : Int) ∣ (wrap32 z).toInt - z) ∧
  (∀ a b : Word, aluAdd a b = a + b ∧ aluSub a b = a - b ∧ aluMul a b = a * b ∧ aluInc a = a + 1 ∧ aluDec a = a - 1)

/-- Division and remainder by a divisor other than 0 (42 R174, R175, decisions D15 and D16, supplies 93 G1 and G2):
exact but for `-2^31 / -1`, which gives `-2^31` and remainder 0; the remainder is smaller than the divisor and is 0 or
has the sign of the dividend. -/
def Obligations.DivisionTruncatesTowardZero : Prop :=
  ∀ a b : Word, b ≠ 0 →
    (a.toInt = -2147483648 → b.toInt = -1 → (aluDiv a b).toInt = -2147483648 ∧ (aluMod a b).toInt = 0) ∧
    (¬ (a.toInt = -2147483648 ∧ b.toInt = -1) → (aluDiv a b).toInt = Int.tdiv a.toInt b.toInt) ∧
    ((aluMod a b).toInt = Int.tmod a.toInt b.toInt) ∧
    ((aluMod a b).toInt.natAbs < b.toInt.natAbs) ∧
    (0 < (aluMod a b).toInt → 0 < a.toInt) ∧ ((aluMod a b).toInt < 0 → a.toInt < 0)

/-! ### Conditional skip -/

/-- 43 R202. -/
def Obligations.IfbsJumpsUnlessTheBitIsSet : Prop :=
  EncodedAs .ifbs 13 (fun f => .ifbs f.n1 f.n3) ∧
  ∀ (s : State) (n1 n3 : Half),
    (Valid n1 s.cfg.nb → Valid n3 s.progLen.toNat → Unless (s.bit (cellOf n1) = 1) (.ifbs n1 n3) s n3) ∧
    FaultsCB (.ifbs n1 n3) .ifbs s n1 n3

/-- 43 R203. -/
def Obligations.IfbcJumpsUnlessTheBitIsClear : Prop :=
  EncodedAs .ifbc 14 (fun f => .ifbc f.n1 f.n3) ∧
  ∀ (s : State) (n1 n3 : Half),
    (Valid n1 s.cfg.nb → Valid n3 s.progLen.toNat → Unless (s.bit (cellOf n1) = 0) (.ifbc n1 n3) s n3) ∧
    FaultsCB (.ifbc n1 n3) .ifbc s n1 n3

/-- 43 R204. -/
def Obligations.IfltlJumpsUnlessLessThanTheLiteral : Prop :=
  EncodedAs .ifltl 15 (fun f => .ifltl f.n1 f.lit f.n3) ∧
  ∀ (s : State) (n1 : Half) (lit : Word) (n3 : Half),
    (Valid n1 s.cfg.ni → Valid n3 s.progLen.toNat →
      Unless ((s.int (cellOf n1)).toInt < lit.toInt) (.ifltl n1 lit n3) s n3) ∧
    (¬ Valid n1 s.cfg.ni → TakesFault (.ifltl n1 lit n3) s .ifltl .intAddr n1) ∧
    (Valid n1 s.cfg.ni → ¬ Valid n3 s.progLen.toNat → TakesFault (.ifltl n1 lit n3) s .ifltl .jumpTarget n3)

/-- 43 R205. -/
def Obligations.IfeqJumpsUnlessEqual : Prop :=
  EncodedAs .ifeq 16 (fun f => .ifeq f.n1 f.n2 f.n3) ∧
  ∀ (s : State) (n1 n2 n3 : Half),
    (Valid n1 s.cfg.ni → Valid n2 s.cfg.ni → Valid n3 s.progLen.toNat →
      Unless (s.int (cellOf n1) = s.int (cellOf n2)) (.ifeq n1 n2 n3) s n3) ∧
    FaultsCI (.ifeq n1 n2 n3) .ifeq s n1 n2 n3

/-- `IFGE`, `IFLE`, `IFNE`, `IFGT` compare `Int[n1]` with `Int[n2]`, signed, in that order (43 R206 to R209). That they
compare these operands is the spec's decision D7. -/
def Obligations.RelationalSkipsCompareTwoCells : Prop :=
  EncodedAs .ifge 17 (fun f => .ifge f.n1 f.n2 f.n3) ∧ EncodedAs .ifle 18 (fun f => .ifle f.n1 f.n2 f.n3) ∧
  EncodedAs .ifne 19 (fun f => .ifne f.n1 f.n2 f.n3) ∧ EncodedAs .ifgt 20 (fun f => .ifgt f.n1 f.n2 f.n3) ∧
  ∀ (s : State) (n1 n2 n3 : Half),
    (Valid n1 s.cfg.ni → Valid n2 s.cfg.ni → Valid n3 s.progLen.toNat →
      Unless ((s.int (cellOf n1)).toInt ≥ (s.int (cellOf n2)).toInt) (.ifge n1 n2 n3) s n3 ∧
      Unless ((s.int (cellOf n1)).toInt ≤ (s.int (cellOf n2)).toInt) (.ifle n1 n2 n3) s n3 ∧
      Unless ((s.int (cellOf n1)).toInt ≠ (s.int (cellOf n2)).toInt) (.ifne n1 n2 n3) s n3 ∧
      Unless ((s.int (cellOf n1)).toInt > (s.int (cellOf n2)).toInt) (.ifgt n1 n2 n3) s n3) ∧
    FaultsCI (.ifge n1 n2 n3) .ifge s n1 n2 n3 ∧ FaultsCI (.ifle n1 n2 n3) .ifle s n1 n2 n3 ∧
    FaultsCI (.ifne n1 n2 n3) .ifne s n1 n2 n3 ∧ FaultsCI (.ifgt n1 n2 n3) .ifgt s n1 n2 n3

/-! ### Jump, end, markers, unrecognized -/

/-- 44 R220. -/
def Obligations.JmpSetsThePc : Prop :=
  EncodedAs .jmp 21 (fun f => .jmp f.n3) ∧
  ∀ (s : State) (n3 : Half),
    (Valid n3 s.progLen.toNat → exec (.jmp n3) s = .next { s with pc := n3 }) ∧
    (¬ Valid n3 s.progLen.toNat → TakesFault (.jmp n3) s .jmp .jumpTarget n3)

/-- 44 R221: `DONE` is set, the FSM is IDLE, `pc` and everything else stay, in every state; no fault. -/
def Obligations.EndEndsTheScan : Prop :=
  EncodedAs .endScan 22 (fun _ => .endScan) ∧
  ∀ s : State, exec .endScan s = .next { s with done := true, fsm := .idle }

/-- 44 R222 to R224: the markers do nothing but advance `pc`, in every state and whatever their fields hold; no fault. -/
def Obligations.MarkersOnlyAdvance : Prop :=
  EncodedAs .afwd 23 (fun _ => .afwd) ∧ EncodedAs .aknown 24 (fun _ => .aknown) ∧
  EncodedAs .arslv 25 (fun _ => .arslv) ∧
  ∀ s : State, exec .afwd s = .next { s with pc := s.pc + 1 } ∧
    exec .aknown s = .next { s with pc := s.pc + 1 } ∧ exec .arslv s = .next { s with pc := s.pc + 1 }

/-- An unrecognized opcode sets `UNK`, keeps its `op` in `UNK_LAST`, counts up to FFFFH and advances `pc`; nothing else
changes (44 R227, decision D17). -/
def Obligations.UnrecognizedIsReportedAndSkipped : Prop :=
  ∀ (s : State) (op : Half), ∃ t, exec (.unrecognized op) s = .next t ∧
    t = { s with pc := s.pc + 1, unk := true, unkLast := op, unkCount := t.unkCount } ∧
    t.unkCount.toNat = min (s.unkCount.toNat + 1) 65535

/-! ### All instructions -/

/-- What no instruction changes: the configuration, `N`, `LOADED`, program memory (20 R73), the host's tables, ports and
pending moves; and every data cell but the instruction's own destination (20 R64). -/
def Obligations.InstructionsChangeOnlyTheirCell : Prop :=
  ∀ (i : Instr) (s t : State), exec i s = .next t →
    t = { s with
      pc := t.pc, fsm := t.fsm, done := t.done, faultCause := t.faultCause, faultPc := t.faultPc
      faultOp := t.faultOp, faultArg := t.faultArg, unk := t.unk, unkCount := t.unkCount, unkLast := t.unkLast
      bits := t.bits, ints := t.ints } ∧
    (∀ a, destination i ≠ some (.bit, a) → t.bit a = s.bit a) ∧
    (∀ a, destination i ≠ some (.integer, a) → t.int a = s.int a) ∧
    ((∀ op, i ≠ .unrecognized op) → t.unk = s.unk ∧ t.unkCount = s.unkCount ∧ t.unkLast = s.unkLast)

/-- A faulting instruction takes no effect but the fault entry (60 R244, R245, decisions D11 and D12), and the fault is
`BIT_ADDR`, `INT_ADDR` or `JUMP_TARGET` with a 16-bit signed field as its argument. -/
def Obligations.FaultsArePrecise : Prop :=
  ∀ (i : Instr) (s t : State), exec i s = .next t → s.fsm = .run → t.fsm = .fault →
    ∃ cause arg, t = faultState cause (opField s.cfg i) arg s ∧
      (cause = .bitAddr ∨ cause = .intAddr ∨ cause = .jumpTarget) ∧ t.faultArg.toInt = arg.toInt

/-- Where an instruction leaves `pc` (40 R135, R136): it goes on at `pc + 1` or at its target, or it ends the scan with
`pc` unchanged, and only `END` ends it without a fault. -/
def Obligations.PcMovesByOutcome : Prop :=
  ∀ (i : Instr) (s t : State), exec i s = .next t → s.fsm = .run →
    (t.fsm = .run ∧ (t.pc = s.pc + 1 ∨ targetOf i = some t.pc)) ∨
    (t.fsm = .idle ∧ i = .endScan ∧ t.pc = s.pc) ∨ (t.fsm = .fault ∧ t.pc = s.pc)

/-! ### The whole machine -/

/-- The reset values of 10 R51 (decision D35), for every configuration, with no I/O-map entry and the default cycle time
(10 R50). The clauses after these are the model's DESIGN CHOICE, log 2, and no rule of the spec: the machine's reset is the one of
`Config.reference`, which has the reference values of 00 R5 and, where R5 gives none, the integer bank as
`ANALOG_BANK`. The reference numbering is stated opcode by opcode in the instructions' statements. -/
def Obligations.ResetHasTheResetValues : Prop :=
  (∀ c : Config, ∀ s, s = State.initial c →
    s.cfg = c ∧ s.pc = 0 ∧ s.progLen = 0 ∧ s.loaded = false ∧ s.fsm = .idle ∧ s.done = false ∧ s.fellOff = false ∧
    s.unk = false ∧ s.faultCause = .none ∧ s.faultPc = 0 ∧ s.faultOp = 0 ∧ s.faultArg = 0 ∧ s.unkCount = 0 ∧
    s.unkLast = 0 ∧ s.status = 0 ∧ (∀ a, s.bit a = 0) ∧ (∀ a, s.int a = 0) ∧
    (∀ n, pinAddress s.iomapX n = none ∧ pinAddress s.iomapY n = none ∧ pinAddress s.iomapA n = none) ∧
    s.cycleTime = c.cycleDefault) ∧
  State.reset = State.initial Config.reference ∧
  Config.reference.nb = 128 ∧ Config.reference.ni = 128 ∧ Config.reference.maxOps = 1024 ∧
  Config.reference.nx = 16 ∧ Config.reference.ny = 16 ∧ Config.reference.na = 16 ∧
  Config.reference.byteOrder = .le ∧ Config.reference.cycleDefault = 10000 ∧
  Config.reference.analogBank = .integer

/-- A Reset the host makes, in any FSM state, gives every piece of block state its reset value and keeps the
configuration (70 R270, decisions D35 and D41). -/
def Obligations.ResetMoveResetsTheBlock : Prop :=
  ∀ (s : State) (rest : List HostMove), s.moves = .op .reset :: rest →
    ∃ t, step s = .next t ∧ t.cfg = s.cfg ∧ t.moves = rest ∧ t.pc = 0 ∧ t.progLen = 0 ∧ t.loaded = false ∧
      t.fsm = .idle ∧ t.status = 0 ∧ t.faultPc = 0 ∧ t.faultOp = 0 ∧ t.faultArg = 0 ∧ t.unkCount = 0 ∧
      t.unkLast = 0 ∧ (∀ a, t.bit a = 0) ∧ (∀ a, t.int a = 0)

/-- The invariant holds at reset, for every admissible configuration; the reference one is admissible. -/
def Obligations.ConsistentAtReset : Prop :=
  Config.reference.Admissible ∧ ∀ c : Config, c.Admissible → Consistent (State.initial c)

/-- Every step, the engine's and the host's, keeps the invariant: the memories stay canonical and inside their spaces,
a running scan has a loaded program with `pc <= N <= MAX_OPS`, and the status registers agree with the FSM. -/
def Obligations.ConsistentIsKeptByEveryStep : Prop :=
  ∀ s t : State, Consistent s → step s = .next t → Consistent t

/-- From a consistent state the machine goes on unless the block is in FAULT and the host has no move, where the engine
has no step (60 R246; that the machine stops there is the model's choice, log 10). -/
def Obligations.OnlyAFaultedBlockStops : Prop :=
  ∀ s : State, Consistent s →
    (∃ t, step s = .next t) ∨
    (s.fsm = .fault ∧ s.moves = [] ∧ step s = .fault (.blockFaulted s.faultCause))

/-- No step changes the configuration (00 R5; log 1). -/
def Obligations.ConfigurationIsFixed : Prop :=
  ∀ s t : State, step s = .next t → t.cfg = s.cfg

/-- FAULT is left only by Reset, and until then the fault record stays (60 R246, decision D11). -/
def Obligations.FaultIsLeftOnlyByReset : Prop :=
  ∀ s t : State, s.fsm = .fault → step s = .next t → ¬ ResetComes s →
    t.fsm = .fault ∧ t.faultCause = s.faultCause ∧ t.faultPc = s.faultPc ∧ t.faultOp = s.faultOp ∧
      t.faultArg = s.faultArg

/-- The fault record changes only on entry to FAULT or by Reset (10 R30, R31, decision D12). -/
def Obligations.FaultRecordChangesOnlyOnEntryOrReset : Prop :=
  ∀ s t : State, step s = .next t → ¬ ResetComes s → ¬ (s.fsm ≠ .fault ∧ t.fsm = .fault) →
    t.faultCause = s.faultCause ∧ t.faultPc = s.faultPc ∧ t.faultOp = s.faultOp ∧ t.faultArg = s.faultArg

/-- The count of unrecognized opcodes never falls but by Reset, and `UNK` is sticky (10 R32, decision D17). -/
def Obligations.UnknownCountNeverFalls : Prop :=
  ∀ s t : State, step s = .next t → ¬ ResetComes s →
    s.unkCount.toNat ≤ t.unkCount.toNat ∧ (s.unk = true → t.unk = true)

/-- While a scan runs, a pending move the host may not make changes nothing: the step is the one of a host with no
move, and the move stays (10 R49, 20 R63, decision D21; the pending list is the model's, log 6). -/
def Obligations.HostMovesWaitWhileAScanRuns : Prop :=
  ∀ (s t : State) (m : HostMove) (rest : List HostMove), s.fsm = .run → s.moves = m :: rest → m ≠ .pass →
    m.allowed .run = false → step { s with moves := [] } = .next t → step s = .next { t with moves := m :: rest }

/-- `JMP` to itself hangs the scan: no number of steps leaves the state (40 R141, 43 R210, 44 R220). -/
def Obligations.SelfJumpHangsTheScan : Prop :=
  ∀ (s : State) (n3 : Half) (k : Nat), s.fsm = .run → s.moves = [] → s.pc.toNat < s.progLen.toNat →
    s.fetch = .jmp n3 → Valid n3 s.progLen.toNat → n3 = s.pc → Host.Core.run core k s = .next s

/-- The executor under fuel `k` answers `t` exactly when `t` is the first state the steps reach in which the FSM is not
RUN, at most `k` steps on (40 R141, R142). -/
def Obligations.ScanExecutorReachesTheEnd : Prop :=
  ∀ (k : Nat) (s t : State), runScan k s = some t ↔
    t.fsm ≠ .run ∧ ∃ j, j ≤ k ∧ Host.Core.run core j s = .next t ∧
      ∀ i u, i < j → Host.Core.run core i s = .next u → u.fsm = .run

/-! ### The host's operations -/

/-- Start (10 R45, 60 R244, decisions D19 and D20): a scan begins, a start with nothing loaded faults with a zero
record and keeps `pc`, and a start in RUN or FAULT has no effect. -/
def Obligations.StartBeginsAScanOrFaults : Prop :=
  ∀ s : State,
    (s.fsm = .idle → s.loaded = true →
      applyOp .start s = { s with pc := 0, done := false, fellOff := false, fsm := .run }) ∧
    (s.fsm = .idle → s.loaded = false →
      applyOp .start s = { s with fsm := .fault, faultCause := .notLoaded, faultPc := 0, faultOp := 0, faultArg := 0 }) ∧
    (s.fsm ≠ .idle → applyOp .start s = s)

/-- ProgInvalidate, ProgWrite and ProgCommit (10 R41, R42, R44, decision D30), outside RUN. -/
def Obligations.ProgramOperationsAct : Prop :=
  ∀ s : State, s.fsm ≠ .run →
    applyOp .progInvalidate s = { s with loaded := false, progLen := 0 } ∧
    (∀ i w, s.loaded = false → i.toNat < s.cfg.maxOps →
      (applyOp (.progWrite i w) s).slot i.toNat = w ∧
      (∀ j, j ≠ i.toNat → (applyOp (.progWrite i w) s).slot j = s.slot j) ∧
      applyOp (.progWrite i w) s = { s with prog := (applyOp (.progWrite i w) s).prog }) ∧
    (∀ i w, s.loaded = true ∨ s.cfg.maxOps ≤ i.toNat → applyOp (.progWrite i w) s = s) ∧
    (∀ n, s.loaded = false → n.toNat ≤ s.cfg.maxOps →
      applyOp (.progCommit n) s = { s with progLen := n, loaded := true }) ∧
    (∀ n, s.loaded = true ∨ s.cfg.maxOps < n.toNat → applyOp (.progCommit n) s = s)

/-- MemWrite (10 R47, decisions D21, D22, D36, D37), outside RUN: bit 0 into a bit cell, the whole value into an integer
cell, no effect outside the bank, and nothing else changed. -/
def Obligations.HostWritesOneCell : Prop :=
  ∀ (s : State) (a : Half) (v : Word), s.fsm ≠ .run →
    (Valid a s.cfg.nb → ∀ t, t = applyOp (.memWrite .bit a v) s →
      t.bit (cellOf a) = v.extractLsb' 0 1 ∧ (∀ b, b ≠ cellOf a → t.bit b = s.bit b) ∧ t = { s with bits := t.bits }) ∧
    (Valid a s.cfg.ni → ∀ t, t = applyOp (.memWrite .integer a v) s →
      t.int (cellOf a) = v ∧ (∀ b, b ≠ cellOf a → t.int b = s.int b) ∧ t = { s with ints := t.ints }) ∧
    (¬ Valid a s.cfg.nb → applyOp (.memWrite .bit a v) s = s) ∧
    (¬ Valid a s.cfg.ni → applyOp (.memWrite .integer a v) s = s)

/-- MemRead (10 R46, decisions D21, D22, D36), outside RUN: the cell's value, a bit zero-extended; outside the bank a
free value, about which nothing is claimed (log 8). It changes no state of the block. -/
def Obligations.HostReadsTheCell : Prop :=
  ∀ (s : State) (a : Half), s.fsm ≠ .run →
    (Valid a s.cfg.nb →
      applyOp (.memRead .bit a) s = { s with memRdata := (s.bit (cellOf a)).zeroExtend 32 }) ∧
    (Valid a s.cfg.ni → applyOp (.memRead .integer a) s = { s with memRdata := s.int (cellOf a) }) ∧
    (∀ bank, ∃ v d, applyOp (.memRead bank a) s = { s with memRdata := v, draws := d })

/-- The register-read port (10 R33, R48, decision D12): each index its register, the reserved ones 0, and no change of
the block. -/
def Obligations.RegisterPortReadsEachRegister : Prop :=
  ∀ s : State, s.register 0 = s.status ∧ s.register 1 = s.pc.zeroExtend 32 ∧
    s.register 2 = s.progLen.zeroExtend 32 ∧ s.register 3 = s.faultPc.zeroExtend 32 ∧
    s.register 4 = s.faultOp.zeroExtend 32 ∧ s.register 5 = s.faultArg ∧ s.register 6 = s.unkCount.zeroExtend 32 ∧
    s.register 7 = s.unkLast.zeroExtend 32 ∧ (∀ k : BitVec 4, 8 ≤ k.toNat → s.register k = 0) ∧
    (∀ k, applyOp (.regRead k) s = { s with regRdata := s.register k })

/-- The fields of STATUS and its reserved bits (10 R27, decision D12), with the number of each fault cause (60 R241,
decisions D8, D9, D12, D19). -/
def Obligations.StatusHoldsItsFields : Prop :=
  ∀ s : State, s.status.getLsbD 0 = s.loaded ∧ s.status.getLsbD 1 = (s.fsm == .run) ∧ s.status.getLsbD 2 = s.done ∧
    s.status.getLsbD 3 = (s.fsm == .fault) ∧ s.status.getLsbD 4 = s.fellOff ∧ s.status.getLsbD 5 = s.unk ∧
    s.status.extractLsb' 6 2 = 0 ∧ s.status.extractLsb' 12 20 = 0 ∧
    s.status.extractLsb' 8 4 = match s.faultCause with
      | .none => 0
      | .bitAddr => 1
      | .intAddr => 2
      | .jumpTarget => 3
      | .notLoaded => 4

/-- The oldest pending move is made when the FSM allows it, which is always but in RUN, where only Reset and RegRead are
(10 R49); a `pass` in IDLE or FAULT only goes by. What each move is: an operation, a load, or the operations a sequence
stands for. ReadInputs is a MemWrite of every given pin that `IOMAP_X` maps, WriteOutputs a MemRead of every cell
`IOMAP_Y` maps (10 R43, R50), the analog glue a MemRead of every cell `IOMAP_A` maps; a period is ReadInputs, Start and,
after the scan, WriteOutputs, none of them on a faulted block (70 R273). The pending list, `pass`, and the order of the
operations in a sequence are the model's (log 5, 20). -/
def Obligations.HostMovesAreMadeWhenAllowed : Prop :=
  (∀ (s : State) (m : HostMove) (rest : List HostMove), s.moves = m :: rest → m ≠ .pass → m.allowed s.fsm = true →
    step s = .next (performMove m { s with moves := rest })) ∧
  (∀ (s : State) (rest : List HostMove), s.moves = .pass :: rest → s.fsm ≠ .run →
    step s = .next { s with moves := rest }) ∧
  (∀ m : HostMove, m.allowed .idle = true ∧ m.allowed .fault = true ∧
    (m.allowed .run = true ↔ m = .op .reset ∨ ∃ k, m = .op (.regRead k))) ∧
  ∀ s : State,
    (∀ o, performMove (.op o) s = applyOp o s) ∧
    (∀ source, performMove (.load source) s = loadProgram source s) ∧
    (∀ pins, performMove (.readInputs pins) s = { s with
      moves := pins.filterMap (fun p => (s.iomapX[p.1]?).join.map (fun a =>
        HostMove.op (.memWrite .bit (BitVec.ofNat 16 a) (p.2.zeroExtend 32)))) ++ s.moves }) ∧
    (performMove .writeOutputs s = { s with
      moves := s.iomapY.filterMap (fun e => e.map (fun a => HostMove.op (.memRead .bit (BitVec.ofNat 16 a)))) ++
        s.moves }) ∧
    (performMove .readAnalog s = { s with
      moves := s.iomapA.filterMap (fun e => e.map (fun a =>
        HostMove.op (.memRead s.cfg.analogBank (BitVec.ofNat 16 a)))) ++ s.moves }) ∧
    (∀ pins, performMove (.period pins) s =
      if s.fsm = .fault then s
      else { s with moves := .readInputs pins :: .op .start :: .afterScan :: s.moves }) ∧
    performMove .afterScan s = if s.fsm = .fault then s else { s with moves := .writeOutputs :: s.moves }

/-! ### Loading -/

/-- What a load accepts (30 R103, R112, R114, decisions D26, D28, D29): at most `MAX_OPS` records, exactly one `END`, every
target inside the program, tables within their ranges. -/
def Obligations.AcceptedProgramsAreWellFormed : Prop :=
  ∀ (c : Config) (source : Source) (p : Image), c.Admissible → readContainer c source = .ok p →
    p.records.length ≤ c.maxOps ∧ endCount c p.records = 1 ∧
    (∀ w ∈ p.records, targetFits c p.records.length w = true) ∧
    MapOk p.tables.x c.nx ∧ MapOk p.tables.y c.ny ∧ MapOk p.tables.a c.na ∧
    1 ≤ p.tables.cycleTime ∧ p.tables.cycleTime ≤ 2147483647

/-- A load that succeeds (30 R111, R115, 70 R274, decision D30): the records in the slots from 0, `N` their number, the
tables replaced, and the data memories, the FSM, the fault record and the report of unrecognized opcodes kept. -/
def Obligations.LoadCommitsTheProgram : Prop :=
  ∀ (s t : State) (source : Source) (p : Image), s.cfg.Admissible → s.fsm ≠ .run →
    readContainer s.cfg source = .ok p → t = loadProgram source s →
    t.loaded = true ∧ t.progLen.toNat = p.records.length ∧
    (∀ j (h : j < p.records.length), t.slot j = p.records[j]) ∧
    (∀ j, p.records.length ≤ j → t.slot j = s.slot j) ∧
    t = { s with
      loaded := true, progLen := t.progLen, prog := t.prog, iomapX := p.tables.x, iomapY := p.tables.y
      iomapA := p.tables.a, cycleTime := p.tables.cycleTime, loadReport := .loaded }

/-- A load that fails leaves nothing loaded and changes nothing else of the block or the host's tables, so a Start after
it in IDLE faults with `NOT_LOADED` (30 R116, decision D30). -/
def Obligations.FailedLoadLeavesNothingLoaded : Prop :=
  ∀ (s : State) (source : Source) (e : LoadError), s.fsm ≠ .run → readContainer s.cfg source = .error e →
    loadProgram source s = { s with loaded := false, progLen := 0, loadReport := .failed e } ∧
    (s.fsm = .idle → (applyOp .start (loadProgram source s)).faultCause = .notLoaded)

/-- A program the loader accepted never faults on a jump target (30 R114, 40 R138). Its targets fit after the load; they
go on fitting over every step, of the engine (after a `pass` too) or of the host (Start and a reload too), and none of
these steps raises `JUMP_TARGET`, but for a host that writes or commits program memory by hand; so no number of steps
does. -/
def Obligations.LoadedProgramsNeverFaultOnATarget : Prop :=
  (∀ (s : State) (source : Source) (p : Image), s.cfg.Admissible → s.fsm ≠ .run →
    readContainer s.cfg source = .ok p → TargetsFit (loadProgram source s)) ∧
  (∀ s t : State, s.cfg.Admissible → TargetsFit s → (∀ m rest, s.moves = m :: rest → ¬ ProgramsByHand m) →
    step s = .next t → TargetsFit t ∧ (t.faultCause = .jumpTarget → s.faultCause = .jumpTarget)) ∧
  (∀ (k : Nat) (s t : State), s.cfg.Admissible → TargetsFit s → (∀ m ∈ s.moves, ¬ ProgramsByHand m) →
    s.faultCause ≠ .jumpTarget → Host.Core.run core k s = .next t → t.faultCause ≠ .jumpTarget)

/-- The disassembly (30 R122, R123, decision D33): line `j` is the index `j`, a colon and the text of record `j`, and after
the last record there is one more line, with the number of unrecognized records, exactly when there are any. The texts
are those of R122's table. The space after the colon is the model's choice (log 18). -/
def Obligations.DisassemblyCountsBadCodes : Prop :=
  (∀ (c : Config) (records : List Record),
    (∀ (j : Nat) (h : j < records.length), (disassemble c records)[j]? =
      some (writeDecimal j ++ ascii ": " ++ instrText (decode c records[j]))) ∧
    (disassemble c records).drop records.length =
      if (records.filter (fun w => decide ((decode c w).opcode = none))).length = 0 then []
      else [writeDecimal (records.filter (fun w => decide ((decode c w).opcode = none))).length ++
        ascii " bad code(s)"]) ∧
  (∀ z : Int, readSigned (writeSigned z) = some z) ∧ (∀ n : Nat, readDecimal (writeDecimal n) = some n) ∧
  (∀ k : Half, bitText k = ascii "bit[" ++ writeSigned k.toInt ++ ascii "]" ∧
    intText k = ascii "int[" ++ writeSigned k.toInt ++ ascii "]") ∧
  (∀ k m : Half, ∀ lit : Word,
    instrText (.setb k) = bitText k ++ ascii " := 1" ∧ instrText (.clrb k) = bitText k ++ ascii " := 0" ∧
    instrText (.movb k m) = bitText k ++ ascii " := " ++ bitText m ∧
    instrText (.seti k lit) = intText k ++ ascii " := " ++ writeSigned lit.toInt ∧
    instrText (.movi k m) = intText k ++ ascii " := " ++ intText m ∧
    instrText (.inc k) = intText k ++ ascii " := " ++ intText k ++ ascii " + 1" ∧
    instrText (.dec k) = intText k ++ ascii " := " ++ intText k ++ ascii " - 1") ∧
  (∀ k m t : Half,
    instrText (.add k m t) = intText k ++ ascii " := " ++ intText m ++ ascii " + " ++ intText t ∧
    instrText (.sub k m t) = intText k ++ ascii " := " ++ intText m ++ ascii " - " ++ intText t ∧
    instrText (.mul k m t) = intText k ++ ascii " := " ++ intText m ++ ascii " * " ++ intText t ∧
    instrText (.div k m t) = intText k ++ ascii " := " ++ intText m ++ ascii " / " ++ intText t ∧
    instrText (.mod k m t) = intText k ++ ascii " := " ++ intText m ++ ascii " % " ++ intText t) ∧
  (∀ k m t : Half, ∀ lit : Word, ∀ jump, jump = ascii " goto " ++ writeSigned t.toInt →
    instrText (.ifbs k t) = ascii "unless " ++ (bitText k ++ ascii " = 1") ++ jump ∧
    instrText (.ifbc k t) = ascii "unless " ++ (bitText k ++ ascii " = 0") ++ jump ∧
    instrText (.ifltl k lit t) = ascii "unless " ++ (intText k ++ ascii " < " ++ writeSigned lit.toInt) ++ jump ∧
    instrText (.ifeq k m t) = ascii "unless " ++ (intText k ++ ascii " = " ++ intText m) ++ jump ∧
    instrText (.ifge k m t) = ascii "unless " ++ (intText k ++ ascii " >= " ++ intText m) ++ jump ∧
    instrText (.ifle k m t) = ascii "unless " ++ (intText k ++ ascii " <= " ++ intText m) ++ jump ∧
    instrText (.ifne k m t) = ascii "unless " ++ (intText k ++ ascii " != " ++ intText m) ++ jump ∧
    instrText (.ifgt k m t) = ascii "unless " ++ (intText k ++ ascii " > " ++ intText m) ++ jump ∧
    instrText (.jmp t) = ascii "goto " ++ writeSigned t.toInt) ∧
  instrText .endScan = ascii "end" ∧ instrText .afwd = ascii "(forward-address alloc)" ∧
  instrText .aknown = ascii "(known-address alloc)" ∧ instrText .arslv = ascii "(forward-address resolved)" ∧
  ∀ v : Half, instrText (.unrecognized v) = ascii "bad code op=" ++ writeDecimal v.toNat
end

