-- ==== Sys2Proof/Laws/Codec.lean ====
section
/-! SUPPORT. Record bytes and fields. -/

namespace Sys2Proof

/-- Each byte of a record made from bytes is that byte. -/
theorem recordByte_recordOfBytes (b0 b1 b2 b3 b4 b5 b6 b7 b8 b9 b10 b11 : Byte) :
    let w := recordOfBytes b0 b1 b2 b3 b4 b5 b6 b7 b8 b9 b10 b11
    recordByte w 0 = b0 ∧ recordByte w 1 = b1 ∧ recordByte w 2 = b2 ∧ recordByte w 3 = b3 ∧ recordByte w 4 = b4 ∧
    recordByte w 5 = b5 ∧ recordByte w 6 = b6 ∧ recordByte w 7 = b7 ∧ recordByte w 8 = b8 ∧ recordByte w 9 = b9 ∧
    recordByte w 10 = b10 ∧ recordByte w 11 = b11 := by
  refine ⟨?_, ?_, ?_, ?_, ?_, ?_, ?_, ?_, ?_, ?_, ?_, ?_⟩ <;> ext i hi <;>
    simp only [recordByte, recordOfBytes, BitVec.getElem_extractLsb', BitVec.getLsbD_append] <;>
    simp (disch := omega) only [if_neg, if_pos] <;>
    rw [← BitVec.getLsbD_eq_getElem hi] <;> congr 1 <;> omega

/-- A two-byte field is made of its bytes, in either byte order. -/
theorem halfOfBytes_halfByte (bo : ByteOrder) (h : Half) :
    halfOfBytes bo (halfByte bo h 0) (halfByte bo h 1) = h := by
  have key : h.extractLsb' 8 8 ++ h.extractLsb' 0 8 = h := by
    ext i hi
    simp only [BitVec.getElem_append, BitVec.getElem_extractLsb']
    split <;> rw [BitVec.getLsbD_eq_getElem (by omega)] <;> congr 1 <;> omega
  cases bo <;> exact key

/-- A four-byte field is made of its bytes, in either byte order. -/
theorem wordOfBytes_wordByte (bo : ByteOrder) (v : Word) :
    wordOfBytes bo (wordByte bo v 0) (wordByte bo v 1) (wordByte bo v 2) (wordByte bo v 3) = v := by
  have key : v.extractLsb' 24 8 ++ v.extractLsb' 16 8 ++ v.extractLsb' 8 8 ++ v.extractLsb' 0 8 = v := by
    ext i hi
    simp only [BitVec.getElem_append, BitVec.getElem_extractLsb']
    (repeat' split) <;> rw [BitVec.getLsbD_eq_getElem (by omega)] <;> congr 1 <;> omega
  cases bo <;> exact key

/-- The fields of a record made from fields are those fields. -/
theorem fieldsOf_recordOf (bo : ByteOrder) (f : Fields) : fieldsOf bo (recordOf bo f) = f := by
  obtain ⟨h0, h1, h2, h3, h4, h5, h6, h7, h8, h9, h10, h11⟩ :=
    recordByte_recordOfBytes (halfByte bo f.op 0) (halfByte bo f.op 1) (halfByte bo f.n1 0) (halfByte bo f.n1 1)
      (halfByte bo f.n2 0) (halfByte bo f.n2 1) (halfByte bo f.n3 0) (halfByte bo f.n3 1)
      (wordByte bo f.lit 0) (wordByte bo f.lit 1) (wordByte bo f.lit 2) (wordByte bo f.lit 3)
  unfold fieldsOf recordOf
  simp only [h0, h1, h2, h3, h4, h5, h6, h7, h8, h9, h10, h11, halfOfBytes_halfByte, wordOfBytes_wordByte]

end Sys2Proof
end

