-- ==== Sys2Proof/Laws/Memory.lean ====
section
/-! SUPPORT. Reading after writing a sparse memory, and that every memory operation keeps the canonical form. -/

namespace Sys2Proof.Machine

variable {w : Nat}

@[simp] theorem lookup_nil (a : Nat) : Cells.lookup ([] : Cells w) a = none := rfl

theorem lookup_insert (m : Cells w) (a : Nat) (v : BitVec w) (b : Nat) :
    Cells.lookup (Cells.insert m a v) b = if b = a then some v else Cells.lookup m b := by
  induction m with
  | nil => simp [Cells.insert, Cells.lookup]
  | cons c rest ih =>
    obtain ⟨k, u⟩ := c
    simp only [Cells.insert]
    split
    · simp only [Cells.lookup]
    · split
      · subst a; simp only [Cells.lookup]; split <;> simp_all
      · simp only [Cells.lookup, ih]
        by_cases hb : b = k
        · simp [hb, show k ≠ a by omega]
        · simp [hb]

theorem lookup_erase (m : Cells w) (a b : Nat) :
    Cells.lookup (Cells.erase m a) b = if b = a then none else Cells.lookup m b := by
  induction m with
  | nil => simp [Cells.erase, Cells.lookup]
  | cons c rest ih =>
    obtain ⟨k, u⟩ := c
    simp only [Cells.erase]
    by_cases hk : a = k
    · simp only [hk, if_true, Cells.lookup] at ih ⊢
      rw [ih]; by_cases hb : b = k <;> simp [hb]
    · simp only [hk, if_false, Cells.lookup, ih]
      by_cases hb : b = k
      · simp [hb, show k ≠ a by omega]
      · simp [hb]

/-- Reading after writing: the cell written, and every other cell. -/
theorem read_write (m : Cells w) (a : Nat) (v : BitVec w) (b : Nat) :
    Cells.read (Cells.write m a v) b = if b = a then v else Cells.read m b := by
  unfold Cells.read Cells.write
  split
  · rename_i h; rw [lookup_erase]; by_cases hb : b = a <;> simp [hb, h]
  · rw [lookup_insert]; by_cases hb : b = a <;> simp [hb]

theorem read_write_same (m : Cells w) (a : Nat) (v : BitVec w) : Cells.read (Cells.write m a v) a = v := by
  simp [read_write]

theorem read_write_other (m : Cells w) (a : Nat) (v : BitVec w) {b : Nat} (h : b ≠ a) :
    Cells.read (Cells.write m a v) b = Cells.read m b := by simp [read_write, h]

theorem bit_setBit (s : State) (a : Nat) (v : Bit) (b : Nat) :
    (s.setBit a v).bit b = if b = a then v else s.bit b := read_write s.bits a v b

theorem int_setInt (s : State) (a : Nat) (v : Word) (b : Nat) :
    (s.setInt a v).int b = if b = a then v else s.int b := read_write s.ints a v b

theorem slot_setSlot (s : State) (i : Nat) (r : Record) (j : Nat) :
    (s.setSlot i r).slot j = if j = i then r else s.slot j := by
  simp only [State.slot, State.setSlot, lookup_insert]
  by_cases h : j = i <;> simp [h]

/-! ### The canonical form -/

theorem risingFrom_insert (m : Cells w) (a : Nat) (v : BitVec w) (l : Nat) (hl : l < a)
    (h : Cells.risingFrom m l = true) : Cells.risingFrom (Cells.insert m a v) l = true := by
  induction m generalizing l with
  | nil => simp [Cells.insert, Cells.risingFrom, hl]
  | cons c rest ih =>
    obtain ⟨k, u⟩ := c
    simp only [Cells.risingFrom, Bool.and_eq_true, decide_eq_true_eq] at h
    simp only [Cells.insert]
    split
    · simp [Cells.risingFrom, hl, h.2]; omega
    · split
      · subst a; simp [Cells.risingFrom, h]
      · simp only [Cells.risingFrom, Bool.and_eq_true, decide_eq_true_eq]
        exact ⟨h.1, ih k (by omega) h.2⟩

theorem rising_insert (m : Cells w) (a : Nat) (v : BitVec w) (h : Cells.rising m = true) :
    Cells.rising (Cells.insert m a v) = true := by
  cases m with
  | nil => simp [Cells.insert, Cells.rising, Cells.risingFrom]
  | cons c rest =>
    obtain ⟨k, u⟩ := c
    simp only [Cells.rising] at h
    simp only [Cells.insert]
    split
    · simp [Cells.rising, Cells.risingFrom, h]; omega
    · split
      · subst a; simpa [Cells.rising] using h
      · simpa [Cells.rising] using risingFrom_insert rest a v k (by omega) h

theorem risingFrom_weaken (m : Cells w) (l l' : Nat) (hl : l' ≤ l) (h : Cells.risingFrom m l = true) :
    Cells.risingFrom m l' = true := by
  cases m with
  | nil => rfl
  | cons c rest =>
    obtain ⟨k, u⟩ := c
    simp only [Cells.risingFrom, Bool.and_eq_true, decide_eq_true_eq] at h ⊢
    exact ⟨by omega, h.2⟩

theorem risingFrom_erase (m : Cells w) (a l : Nat) (h : Cells.risingFrom m l = true) :
    Cells.risingFrom (Cells.erase m a) l = true := by
  induction m generalizing l with
  | nil => rfl
  | cons c rest ih =>
    obtain ⟨k, u⟩ := c
    simp only [Cells.risingFrom, Bool.and_eq_true, decide_eq_true_eq] at h
    simp only [Cells.erase]
    split
    · exact ih l (risingFrom_weaken rest k l (by omega) h.2)
    · simp only [Cells.risingFrom, Bool.and_eq_true, decide_eq_true_eq]
      exact ⟨h.1, ih k h.2⟩

theorem rising_of_risingFrom (m : Cells w) (l : Nat) (h : Cells.risingFrom m l = true) : Cells.rising m = true := by
  cases m with
  | nil => rfl
  | cons c rest =>
    obtain ⟨k, u⟩ := c
    simp only [Cells.risingFrom, Bool.and_eq_true] at h
    exact h.2

theorem rising_erase (m : Cells w) (a : Nat) (h : Cells.rising m = true) : Cells.rising (Cells.erase m a) = true := by
  cases m with
  | nil => rfl
  | cons c rest =>
    obtain ⟨k, u⟩ := c
    simp only [Cells.rising] at h
    simp only [Cells.erase]
    split
    · exact rising_of_risingFrom _ k (risingFrom_erase rest a k h)
    · simpa [Cells.rising] using risingFrom_erase rest a k h

/-- A property of every listed cell survives listing a cell that has it. -/
theorem all_insert (p : Nat × BitVec w → Bool) (m : Cells w) (a : Nat) (v : BitVec w) (hv : p (a, v) = true)
    (h : m.all p = true) : (Cells.insert m a v).all p = true := by
  induction m with
  | nil => simp [Cells.insert, hv]
  | cons c rest ih =>
    obtain ⟨k, u⟩ := c
    simp only [List.all_cons, Bool.and_eq_true] at h
    simp only [Cells.insert]
    split
    · simp [hv, h.1, h.2]
    · split <;> simp [hv, h.1, h.2, ih]

/-- A property of every listed cell survives unlisting one. -/
theorem all_erase (p : Nat × BitVec w → Bool) (m : Cells w) (a : Nat) (h : m.all p = true) :
    (Cells.erase m a).all p = true := by
  induction m with
  | nil => rfl
  | cons c rest ih =>
    obtain ⟨k, u⟩ := c
    simp only [List.all_cons, Bool.and_eq_true] at h
    simp only [Cells.erase]
    split
    · exact ih h.2
    · simp [h.1, ih h.2]

/-- Writing a data cell that exists keeps the canonical form of a data memory. -/
theorem write_keeps_form (m : Cells w) (a : Nat) (v : BitVec w) (size : Nat) (ha : a < size)
    (h : Cells.rising m = true ∧ Cells.below m size = true ∧ Cells.noBlank m = true) :
    Cells.rising (Cells.write m a v) = true ∧ Cells.below (Cells.write m a v) size = true ∧
      Cells.noBlank (Cells.write m a v) = true := by
  obtain ⟨h1, h2, h3⟩ := h
  unfold Cells.write
  split
  · exact ⟨rising_erase m a h1, all_erase _ m a h2, all_erase _ m a h3⟩
  · rename_i hv
    exact ⟨rising_insert m a v h1, all_insert _ m a v (by simpa using ha) h2, all_insert _ m a v (by simpa using hv) h3⟩

theorem setBit_wf (s : State) (a : Nat) (v : Bit) (ha : a < s.cfg.nb) (h : Memory.wf s = true) :
    Memory.wf (s.setBit a v) = true := by
  simp only [Memory.wf, State.setBit, Bool.and_eq_true] at h ⊢
  obtain ⟨⟨⟨⟨b1, b2⟩, b3⟩, hi⟩, hp⟩ := h
  obtain ⟨w1, w2, w3⟩ := write_keeps_form s.bits a v s.cfg.nb ha ⟨b1, b2, b3⟩
  exact ⟨⟨⟨⟨w1, w2⟩, w3⟩, hi⟩, hp⟩

theorem setInt_wf (s : State) (a : Nat) (v : Word) (ha : a < s.cfg.ni) (h : Memory.wf s = true) :
    Memory.wf (s.setInt a v) = true := by
  simp only [Memory.wf, State.setInt, Bool.and_eq_true] at h ⊢
  obtain ⟨⟨hb, ⟨b1, b2⟩, b3⟩, hp⟩ := h
  obtain ⟨w1, w2, w3⟩ := write_keeps_form s.ints a v s.cfg.ni ha ⟨b1, b2, b3⟩
  exact ⟨⟨hb, ⟨w1, w2⟩, w3⟩, hp⟩

theorem setSlot_wf (s : State) (i : Nat) (r : Record) (hi : i < s.cfg.maxOps) (h : Memory.wf s = true) :
    Memory.wf (s.setSlot i r) = true := by
  simp only [Memory.wf, State.setSlot, Bool.and_eq_true] at h ⊢
  obtain ⟨hd, p1, p2⟩ := h
  exact ⟨hd, rising_insert s.prog i r p1, all_insert _ s.prog i r (by simpa using hi) p2⟩

theorem initial_wf (c : Config) : Memory.wf (State.initial c) = true := rfl

theorem reset_wf : Memory.wf State.reset = true := initial_wf Config.reference

/-- Memory.wf reads the configuration and the three memories, nothing else. -/
theorem wf_congr {s t : State} (hc : t.cfg = s.cfg) (hb : t.bits = s.bits) (hi : t.ints = s.ints)
    (hp : t.prog = s.prog) (h : Memory.wf s = true) : Memory.wf t = true := by
  simpa [Memory.wf, hc, hb, hi, hp] using h

end Sys2Proof.Machine
end

