-- ==== Sys2Proof/Laws/State.lean ====
section
/-! SUPPORT. One lemma per field per update of the state, each true by unfolding the update. -/

namespace Sys2Proof.Machine

@[simp] theorem setBit_cfg (s : State) (a : Nat) (v : Bit) : (s.setBit a v).cfg = s.cfg := rfl
@[simp] theorem setBit_pc (s : State) (a : Nat) (v : Bit) : (s.setBit a v).pc = s.pc := rfl
@[simp] theorem setBit_progLen (s : State) (a : Nat) (v : Bit) : (s.setBit a v).progLen = s.progLen := rfl
@[simp] theorem setBit_loaded (s : State) (a : Nat) (v : Bit) : (s.setBit a v).loaded = s.loaded := rfl
@[simp] theorem setBit_fsm (s : State) (a : Nat) (v : Bit) : (s.setBit a v).fsm = s.fsm := rfl
@[simp] theorem setBit_done (s : State) (a : Nat) (v : Bit) : (s.setBit a v).done = s.done := rfl
@[simp] theorem setBit_fellOff (s : State) (a : Nat) (v : Bit) : (s.setBit a v).fellOff = s.fellOff := rfl
@[simp] theorem setBit_faultCause (s : State) (a : Nat) (v : Bit) : (s.setBit a v).faultCause = s.faultCause := rfl
@[simp] theorem setBit_faultPc (s : State) (a : Nat) (v : Bit) : (s.setBit a v).faultPc = s.faultPc := rfl
@[simp] theorem setBit_faultOp (s : State) (a : Nat) (v : Bit) : (s.setBit a v).faultOp = s.faultOp := rfl
@[simp] theorem setBit_faultArg (s : State) (a : Nat) (v : Bit) : (s.setBit a v).faultArg = s.faultArg := rfl
@[simp] theorem setBit_unk (s : State) (a : Nat) (v : Bit) : (s.setBit a v).unk = s.unk := rfl
@[simp] theorem setBit_unkCount (s : State) (a : Nat) (v : Bit) : (s.setBit a v).unkCount = s.unkCount := rfl
@[simp] theorem setBit_unkLast (s : State) (a : Nat) (v : Bit) : (s.setBit a v).unkLast = s.unkLast := rfl
@[simp] theorem setBit_bits (s : State) (a : Nat) (v : Bit) : (s.setBit a v).bits = Cells.write s.bits a v := rfl
@[simp] theorem setBit_ints (s : State) (a : Nat) (v : Bit) : (s.setBit a v).ints = s.ints := rfl
@[simp] theorem setBit_prog (s : State) (a : Nat) (v : Bit) : (s.setBit a v).prog = s.prog := rfl
@[simp] theorem setBit_iomapX (s : State) (a : Nat) (v : Bit) : (s.setBit a v).iomapX = s.iomapX := rfl
@[simp] theorem setBit_iomapY (s : State) (a : Nat) (v : Bit) : (s.setBit a v).iomapY = s.iomapY := rfl
@[simp] theorem setBit_iomapA (s : State) (a : Nat) (v : Bit) : (s.setBit a v).iomapA = s.iomapA := rfl
@[simp] theorem setBit_cycleTime (s : State) (a : Nat) (v : Bit) : (s.setBit a v).cycleTime = s.cycleTime := rfl
@[simp] theorem setBit_memRdata (s : State) (a : Nat) (v : Bit) : (s.setBit a v).memRdata = s.memRdata := rfl
@[simp] theorem setBit_regRdata (s : State) (a : Nat) (v : Bit) : (s.setBit a v).regRdata = s.regRdata := rfl
@[simp] theorem setBit_loadReport (s : State) (a : Nat) (v : Bit) : (s.setBit a v).loadReport = s.loadReport := rfl
@[simp] theorem setBit_moves (s : State) (a : Nat) (v : Bit) : (s.setBit a v).moves = s.moves := rfl
@[simp] theorem setBit_resets (s : State) (a : Nat) (v : Bit) : (s.setBit a v).resets = s.resets := rfl
@[simp] theorem setBit_draws (s : State) (a : Nat) (v : Bit) : (s.setBit a v).draws = s.draws := rfl

@[simp] theorem setInt_cfg (s : State) (a : Nat) (v : Word) : (s.setInt a v).cfg = s.cfg := rfl
@[simp] theorem setInt_pc (s : State) (a : Nat) (v : Word) : (s.setInt a v).pc = s.pc := rfl
@[simp] theorem setInt_progLen (s : State) (a : Nat) (v : Word) : (s.setInt a v).progLen = s.progLen := rfl
@[simp] theorem setInt_loaded (s : State) (a : Nat) (v : Word) : (s.setInt a v).loaded = s.loaded := rfl
@[simp] theorem setInt_fsm (s : State) (a : Nat) (v : Word) : (s.setInt a v).fsm = s.fsm := rfl
@[simp] theorem setInt_done (s : State) (a : Nat) (v : Word) : (s.setInt a v).done = s.done := rfl
@[simp] theorem setInt_fellOff (s : State) (a : Nat) (v : Word) : (s.setInt a v).fellOff = s.fellOff := rfl
@[simp] theorem setInt_faultCause (s : State) (a : Nat) (v : Word) : (s.setInt a v).faultCause = s.faultCause := rfl
@[simp] theorem setInt_faultPc (s : State) (a : Nat) (v : Word) : (s.setInt a v).faultPc = s.faultPc := rfl
@[simp] theorem setInt_faultOp (s : State) (a : Nat) (v : Word) : (s.setInt a v).faultOp = s.faultOp := rfl
@[simp] theorem setInt_faultArg (s : State) (a : Nat) (v : Word) : (s.setInt a v).faultArg = s.faultArg := rfl
@[simp] theorem setInt_unk (s : State) (a : Nat) (v : Word) : (s.setInt a v).unk = s.unk := rfl
@[simp] theorem setInt_unkCount (s : State) (a : Nat) (v : Word) : (s.setInt a v).unkCount = s.unkCount := rfl
@[simp] theorem setInt_unkLast (s : State) (a : Nat) (v : Word) : (s.setInt a v).unkLast = s.unkLast := rfl
@[simp] theorem setInt_bits (s : State) (a : Nat) (v : Word) : (s.setInt a v).bits = s.bits := rfl
@[simp] theorem setInt_ints (s : State) (a : Nat) (v : Word) : (s.setInt a v).ints = Cells.write s.ints a v := rfl
@[simp] theorem setInt_prog (s : State) (a : Nat) (v : Word) : (s.setInt a v).prog = s.prog := rfl
@[simp] theorem setInt_iomapX (s : State) (a : Nat) (v : Word) : (s.setInt a v).iomapX = s.iomapX := rfl
@[simp] theorem setInt_iomapY (s : State) (a : Nat) (v : Word) : (s.setInt a v).iomapY = s.iomapY := rfl
@[simp] theorem setInt_iomapA (s : State) (a : Nat) (v : Word) : (s.setInt a v).iomapA = s.iomapA := rfl
@[simp] theorem setInt_cycleTime (s : State) (a : Nat) (v : Word) : (s.setInt a v).cycleTime = s.cycleTime := rfl
@[simp] theorem setInt_memRdata (s : State) (a : Nat) (v : Word) : (s.setInt a v).memRdata = s.memRdata := rfl
@[simp] theorem setInt_regRdata (s : State) (a : Nat) (v : Word) : (s.setInt a v).regRdata = s.regRdata := rfl
@[simp] theorem setInt_loadReport (s : State) (a : Nat) (v : Word) : (s.setInt a v).loadReport = s.loadReport := rfl
@[simp] theorem setInt_moves (s : State) (a : Nat) (v : Word) : (s.setInt a v).moves = s.moves := rfl
@[simp] theorem setInt_resets (s : State) (a : Nat) (v : Word) : (s.setInt a v).resets = s.resets := rfl
@[simp] theorem setInt_draws (s : State) (a : Nat) (v : Word) : (s.setInt a v).draws = s.draws := rfl

@[simp] theorem setSlot_cfg (s : State) (i : Nat) (w : Record) : (s.setSlot i w).cfg = s.cfg := rfl
@[simp] theorem setSlot_pc (s : State) (i : Nat) (w : Record) : (s.setSlot i w).pc = s.pc := rfl
@[simp] theorem setSlot_progLen (s : State) (i : Nat) (w : Record) : (s.setSlot i w).progLen = s.progLen := rfl
@[simp] theorem setSlot_loaded (s : State) (i : Nat) (w : Record) : (s.setSlot i w).loaded = s.loaded := rfl
@[simp] theorem setSlot_fsm (s : State) (i : Nat) (w : Record) : (s.setSlot i w).fsm = s.fsm := rfl
@[simp] theorem setSlot_done (s : State) (i : Nat) (w : Record) : (s.setSlot i w).done = s.done := rfl
@[simp] theorem setSlot_fellOff (s : State) (i : Nat) (w : Record) : (s.setSlot i w).fellOff = s.fellOff := rfl
@[simp] theorem setSlot_faultCause (s : State) (i : Nat) (w : Record) : (s.setSlot i w).faultCause = s.faultCause := rfl
@[simp] theorem setSlot_faultPc (s : State) (i : Nat) (w : Record) : (s.setSlot i w).faultPc = s.faultPc := rfl
@[simp] theorem setSlot_faultOp (s : State) (i : Nat) (w : Record) : (s.setSlot i w).faultOp = s.faultOp := rfl
@[simp] theorem setSlot_faultArg (s : State) (i : Nat) (w : Record) : (s.setSlot i w).faultArg = s.faultArg := rfl
@[simp] theorem setSlot_unk (s : State) (i : Nat) (w : Record) : (s.setSlot i w).unk = s.unk := rfl
@[simp] theorem setSlot_unkCount (s : State) (i : Nat) (w : Record) : (s.setSlot i w).unkCount = s.unkCount := rfl
@[simp] theorem setSlot_unkLast (s : State) (i : Nat) (w : Record) : (s.setSlot i w).unkLast = s.unkLast := rfl
@[simp] theorem setSlot_bits (s : State) (i : Nat) (w : Record) : (s.setSlot i w).bits = s.bits := rfl
@[simp] theorem setSlot_ints (s : State) (i : Nat) (w : Record) : (s.setSlot i w).ints = s.ints := rfl
@[simp] theorem setSlot_prog (s : State) (i : Nat) (w : Record) : (s.setSlot i w).prog = Cells.insert s.prog i w := rfl
@[simp] theorem setSlot_iomapX (s : State) (i : Nat) (w : Record) : (s.setSlot i w).iomapX = s.iomapX := rfl
@[simp] theorem setSlot_iomapY (s : State) (i : Nat) (w : Record) : (s.setSlot i w).iomapY = s.iomapY := rfl
@[simp] theorem setSlot_iomapA (s : State) (i : Nat) (w : Record) : (s.setSlot i w).iomapA = s.iomapA := rfl
@[simp] theorem setSlot_cycleTime (s : State) (i : Nat) (w : Record) : (s.setSlot i w).cycleTime = s.cycleTime := rfl
@[simp] theorem setSlot_memRdata (s : State) (i : Nat) (w : Record) : (s.setSlot i w).memRdata = s.memRdata := rfl
@[simp] theorem setSlot_regRdata (s : State) (i : Nat) (w : Record) : (s.setSlot i w).regRdata = s.regRdata := rfl
@[simp] theorem setSlot_loadReport (s : State) (i : Nat) (w : Record) : (s.setSlot i w).loadReport = s.loadReport := rfl
@[simp] theorem setSlot_moves (s : State) (i : Nat) (w : Record) : (s.setSlot i w).moves = s.moves := rfl
@[simp] theorem setSlot_resets (s : State) (i : Nat) (w : Record) : (s.setSlot i w).resets = s.resets := rfl
@[simp] theorem setSlot_draws (s : State) (i : Nat) (w : Record) : (s.setSlot i w).draws = s.draws := rfl

@[simp] theorem fallOff_cfg (s : State) : s.fallOff.cfg = s.cfg := rfl
@[simp] theorem fallOff_pc (s : State) : s.fallOff.pc = s.pc := rfl
@[simp] theorem fallOff_progLen (s : State) : s.fallOff.progLen = s.progLen := rfl
@[simp] theorem fallOff_loaded (s : State) : s.fallOff.loaded = s.loaded := rfl
@[simp] theorem fallOff_fsm (s : State) : s.fallOff.fsm = .idle := rfl
@[simp] theorem fallOff_done (s : State) : s.fallOff.done = true := rfl
@[simp] theorem fallOff_fellOff (s : State) : s.fallOff.fellOff = true := rfl
@[simp] theorem fallOff_faultCause (s : State) : s.fallOff.faultCause = s.faultCause := rfl
@[simp] theorem fallOff_faultPc (s : State) : s.fallOff.faultPc = s.faultPc := rfl
@[simp] theorem fallOff_faultOp (s : State) : s.fallOff.faultOp = s.faultOp := rfl
@[simp] theorem fallOff_faultArg (s : State) : s.fallOff.faultArg = s.faultArg := rfl
@[simp] theorem fallOff_unk (s : State) : s.fallOff.unk = s.unk := rfl
@[simp] theorem fallOff_unkCount (s : State) : s.fallOff.unkCount = s.unkCount := rfl
@[simp] theorem fallOff_unkLast (s : State) : s.fallOff.unkLast = s.unkLast := rfl
@[simp] theorem fallOff_bits (s : State) : s.fallOff.bits = s.bits := rfl
@[simp] theorem fallOff_ints (s : State) : s.fallOff.ints = s.ints := rfl
@[simp] theorem fallOff_prog (s : State) : s.fallOff.prog = s.prog := rfl
@[simp] theorem fallOff_iomapX (s : State) : s.fallOff.iomapX = s.iomapX := rfl
@[simp] theorem fallOff_iomapY (s : State) : s.fallOff.iomapY = s.iomapY := rfl
@[simp] theorem fallOff_iomapA (s : State) : s.fallOff.iomapA = s.iomapA := rfl
@[simp] theorem fallOff_cycleTime (s : State) : s.fallOff.cycleTime = s.cycleTime := rfl
@[simp] theorem fallOff_memRdata (s : State) : s.fallOff.memRdata = s.memRdata := rfl
@[simp] theorem fallOff_regRdata (s : State) : s.fallOff.regRdata = s.regRdata := rfl
@[simp] theorem fallOff_loadReport (s : State) : s.fallOff.loadReport = s.loadReport := rfl
@[simp] theorem fallOff_moves (s : State) : s.fallOff.moves = s.moves := rfl
@[simp] theorem fallOff_resets (s : State) : s.fallOff.resets = s.resets := rfl
@[simp] theorem fallOff_draws (s : State) : s.fallOff.draws = s.draws := rfl

@[simp] theorem reportUnknown_cfg (s : State) (op : Half) : (s.reportUnknown op).cfg = s.cfg := rfl
@[simp] theorem reportUnknown_pc (s : State) (op : Half) : (s.reportUnknown op).pc = s.pc := rfl
@[simp] theorem reportUnknown_progLen (s : State) (op : Half) : (s.reportUnknown op).progLen = s.progLen := rfl
@[simp] theorem reportUnknown_loaded (s : State) (op : Half) : (s.reportUnknown op).loaded = s.loaded := rfl
@[simp] theorem reportUnknown_fsm (s : State) (op : Half) : (s.reportUnknown op).fsm = s.fsm := rfl
@[simp] theorem reportUnknown_done (s : State) (op : Half) : (s.reportUnknown op).done = s.done := rfl
@[simp] theorem reportUnknown_fellOff (s : State) (op : Half) : (s.reportUnknown op).fellOff = s.fellOff := rfl
@[simp] theorem reportUnknown_faultCause (s : State) (op : Half) : (s.reportUnknown op).faultCause = s.faultCause := rfl
@[simp] theorem reportUnknown_faultPc (s : State) (op : Half) : (s.reportUnknown op).faultPc = s.faultPc := rfl
@[simp] theorem reportUnknown_faultOp (s : State) (op : Half) : (s.reportUnknown op).faultOp = s.faultOp := rfl
@[simp] theorem reportUnknown_faultArg (s : State) (op : Half) : (s.reportUnknown op).faultArg = s.faultArg := rfl
@[simp] theorem reportUnknown_unk (s : State) (op : Half) : (s.reportUnknown op).unk = true := rfl
@[simp] theorem reportUnknown_unkCount (s : State) (op : Half) : (s.reportUnknown op).unkCount = if s.unkCount.toNat < 0xFFFF then s.unkCount + 1 else s.unkCount := rfl
@[simp] theorem reportUnknown_unkLast (s : State) (op : Half) : (s.reportUnknown op).unkLast = op := rfl
@[simp] theorem reportUnknown_bits (s : State) (op : Half) : (s.reportUnknown op).bits = s.bits := rfl
@[simp] theorem reportUnknown_ints (s : State) (op : Half) : (s.reportUnknown op).ints = s.ints := rfl
@[simp] theorem reportUnknown_prog (s : State) (op : Half) : (s.reportUnknown op).prog = s.prog := rfl
@[simp] theorem reportUnknown_iomapX (s : State) (op : Half) : (s.reportUnknown op).iomapX = s.iomapX := rfl
@[simp] theorem reportUnknown_iomapY (s : State) (op : Half) : (s.reportUnknown op).iomapY = s.iomapY := rfl
@[simp] theorem reportUnknown_iomapA (s : State) (op : Half) : (s.reportUnknown op).iomapA = s.iomapA := rfl
@[simp] theorem reportUnknown_cycleTime (s : State) (op : Half) : (s.reportUnknown op).cycleTime = s.cycleTime := rfl
@[simp] theorem reportUnknown_memRdata (s : State) (op : Half) : (s.reportUnknown op).memRdata = s.memRdata := rfl
@[simp] theorem reportUnknown_regRdata (s : State) (op : Half) : (s.reportUnknown op).regRdata = s.regRdata := rfl
@[simp] theorem reportUnknown_loadReport (s : State) (op : Half) : (s.reportUnknown op).loadReport = s.loadReport := rfl
@[simp] theorem reportUnknown_moves (s : State) (op : Half) : (s.reportUnknown op).moves = s.moves := rfl
@[simp] theorem reportUnknown_resets (s : State) (op : Half) : (s.reportUnknown op).resets = s.resets := rfl
@[simp] theorem reportUnknown_draws (s : State) (op : Half) : (s.reportUnknown op).draws = s.draws := rfl

@[simp] theorem enterFault_cfg (cause : FaultCause) (pc op arg : Half) (s : State) : (enterFault cause pc op arg s).cfg = s.cfg := rfl
@[simp] theorem enterFault_pc (cause : FaultCause) (pc op arg : Half) (s : State) : (enterFault cause pc op arg s).pc = s.pc := rfl
@[simp] theorem enterFault_progLen (cause : FaultCause) (pc op arg : Half) (s : State) : (enterFault cause pc op arg s).progLen = s.progLen := rfl
@[simp] theorem enterFault_loaded (cause : FaultCause) (pc op arg : Half) (s : State) : (enterFault cause pc op arg s).loaded = s.loaded := rfl
@[simp] theorem enterFault_fsm (cause : FaultCause) (pc op arg : Half) (s : State) : (enterFault cause pc op arg s).fsm = .fault := rfl
@[simp] theorem enterFault_done (cause : FaultCause) (pc op arg : Half) (s : State) : (enterFault cause pc op arg s).done = s.done := rfl
@[simp] theorem enterFault_fellOff (cause : FaultCause) (pc op arg : Half) (s : State) : (enterFault cause pc op arg s).fellOff = s.fellOff := rfl
@[simp] theorem enterFault_faultCause (cause : FaultCause) (pc op arg : Half) (s : State) : (enterFault cause pc op arg s).faultCause = cause := rfl
@[simp] theorem enterFault_faultPc (cause : FaultCause) (pc op arg : Half) (s : State) : (enterFault cause pc op arg s).faultPc = pc := rfl
@[simp] theorem enterFault_faultOp (cause : FaultCause) (pc op arg : Half) (s : State) : (enterFault cause pc op arg s).faultOp = op := rfl
@[simp] theorem enterFault_faultArg (cause : FaultCause) (pc op arg : Half) (s : State) : (enterFault cause pc op arg s).faultArg = arg.signExtend 32 := rfl
@[simp] theorem enterFault_unk (cause : FaultCause) (pc op arg : Half) (s : State) : (enterFault cause pc op arg s).unk = s.unk := rfl
@[simp] theorem enterFault_unkCount (cause : FaultCause) (pc op arg : Half) (s : State) : (enterFault cause pc op arg s).unkCount = s.unkCount := rfl
@[simp] theorem enterFault_unkLast (cause : FaultCause) (pc op arg : Half) (s : State) : (enterFault cause pc op arg s).unkLast = s.unkLast := rfl
@[simp] theorem enterFault_bits (cause : FaultCause) (pc op arg : Half) (s : State) : (enterFault cause pc op arg s).bits = s.bits := rfl
@[simp] theorem enterFault_ints (cause : FaultCause) (pc op arg : Half) (s : State) : (enterFault cause pc op arg s).ints = s.ints := rfl
@[simp] theorem enterFault_prog (cause : FaultCause) (pc op arg : Half) (s : State) : (enterFault cause pc op arg s).prog = s.prog := rfl
@[simp] theorem enterFault_iomapX (cause : FaultCause) (pc op arg : Half) (s : State) : (enterFault cause pc op arg s).iomapX = s.iomapX := rfl
@[simp] theorem enterFault_iomapY (cause : FaultCause) (pc op arg : Half) (s : State) : (enterFault cause pc op arg s).iomapY = s.iomapY := rfl
@[simp] theorem enterFault_iomapA (cause : FaultCause) (pc op arg : Half) (s : State) : (enterFault cause pc op arg s).iomapA = s.iomapA := rfl
@[simp] theorem enterFault_cycleTime (cause : FaultCause) (pc op arg : Half) (s : State) : (enterFault cause pc op arg s).cycleTime = s.cycleTime := rfl
@[simp] theorem enterFault_memRdata (cause : FaultCause) (pc op arg : Half) (s : State) : (enterFault cause pc op arg s).memRdata = s.memRdata := rfl
@[simp] theorem enterFault_regRdata (cause : FaultCause) (pc op arg : Half) (s : State) : (enterFault cause pc op arg s).regRdata = s.regRdata := rfl
@[simp] theorem enterFault_loadReport (cause : FaultCause) (pc op arg : Half) (s : State) : (enterFault cause pc op arg s).loadReport = s.loadReport := rfl
@[simp] theorem enterFault_moves (cause : FaultCause) (pc op arg : Half) (s : State) : (enterFault cause pc op arg s).moves = s.moves := rfl
@[simp] theorem enterFault_resets (cause : FaultCause) (pc op arg : Half) (s : State) : (enterFault cause pc op arg s).resets = s.resets := rfl
@[simp] theorem enterFault_draws (cause : FaultCause) (pc op arg : Half) (s : State) : (enterFault cause pc op arg s).draws = s.draws := rfl

@[simp] theorem raiseFault_cfg (cause : FaultCause) (op arg : Half) (s : State) : (raiseFault cause op arg s).cfg = s.cfg := rfl
@[simp] theorem raiseFault_pc (cause : FaultCause) (op arg : Half) (s : State) : (raiseFault cause op arg s).pc = s.pc := rfl
@[simp] theorem raiseFault_progLen (cause : FaultCause) (op arg : Half) (s : State) : (raiseFault cause op arg s).progLen = s.progLen := rfl
@[simp] theorem raiseFault_loaded (cause : FaultCause) (op arg : Half) (s : State) : (raiseFault cause op arg s).loaded = s.loaded := rfl
@[simp] theorem raiseFault_fsm (cause : FaultCause) (op arg : Half) (s : State) : (raiseFault cause op arg s).fsm = .fault := rfl
@[simp] theorem raiseFault_done (cause : FaultCause) (op arg : Half) (s : State) : (raiseFault cause op arg s).done = s.done := rfl
@[simp] theorem raiseFault_fellOff (cause : FaultCause) (op arg : Half) (s : State) : (raiseFault cause op arg s).fellOff = s.fellOff := rfl
@[simp] theorem raiseFault_faultCause (cause : FaultCause) (op arg : Half) (s : State) : (raiseFault cause op arg s).faultCause = cause := rfl
@[simp] theorem raiseFault_faultPc (cause : FaultCause) (op arg : Half) (s : State) : (raiseFault cause op arg s).faultPc = s.pc := rfl
@[simp] theorem raiseFault_faultOp (cause : FaultCause) (op arg : Half) (s : State) : (raiseFault cause op arg s).faultOp = op := rfl
@[simp] theorem raiseFault_faultArg (cause : FaultCause) (op arg : Half) (s : State) : (raiseFault cause op arg s).faultArg = arg.signExtend 32 := rfl
@[simp] theorem raiseFault_unk (cause : FaultCause) (op arg : Half) (s : State) : (raiseFault cause op arg s).unk = s.unk := rfl
@[simp] theorem raiseFault_unkCount (cause : FaultCause) (op arg : Half) (s : State) : (raiseFault cause op arg s).unkCount = s.unkCount := rfl
@[simp] theorem raiseFault_unkLast (cause : FaultCause) (op arg : Half) (s : State) : (raiseFault cause op arg s).unkLast = s.unkLast := rfl
@[simp] theorem raiseFault_bits (cause : FaultCause) (op arg : Half) (s : State) : (raiseFault cause op arg s).bits = s.bits := rfl
@[simp] theorem raiseFault_ints (cause : FaultCause) (op arg : Half) (s : State) : (raiseFault cause op arg s).ints = s.ints := rfl
@[simp] theorem raiseFault_prog (cause : FaultCause) (op arg : Half) (s : State) : (raiseFault cause op arg s).prog = s.prog := rfl
@[simp] theorem raiseFault_iomapX (cause : FaultCause) (op arg : Half) (s : State) : (raiseFault cause op arg s).iomapX = s.iomapX := rfl
@[simp] theorem raiseFault_iomapY (cause : FaultCause) (op arg : Half) (s : State) : (raiseFault cause op arg s).iomapY = s.iomapY := rfl
@[simp] theorem raiseFault_iomapA (cause : FaultCause) (op arg : Half) (s : State) : (raiseFault cause op arg s).iomapA = s.iomapA := rfl
@[simp] theorem raiseFault_cycleTime (cause : FaultCause) (op arg : Half) (s : State) : (raiseFault cause op arg s).cycleTime = s.cycleTime := rfl
@[simp] theorem raiseFault_memRdata (cause : FaultCause) (op arg : Half) (s : State) : (raiseFault cause op arg s).memRdata = s.memRdata := rfl
@[simp] theorem raiseFault_regRdata (cause : FaultCause) (op arg : Half) (s : State) : (raiseFault cause op arg s).regRdata = s.regRdata := rfl
@[simp] theorem raiseFault_loadReport (cause : FaultCause) (op arg : Half) (s : State) : (raiseFault cause op arg s).loadReport = s.loadReport := rfl
@[simp] theorem raiseFault_moves (cause : FaultCause) (op arg : Half) (s : State) : (raiseFault cause op arg s).moves = s.moves := rfl
@[simp] theorem raiseFault_resets (cause : FaultCause) (op arg : Half) (s : State) : (raiseFault cause op arg s).resets = s.resets := rfl
@[simp] theorem raiseFault_draws (cause : FaultCause) (op arg : Half) (s : State) : (raiseFault cause op arg s).draws = s.draws := rfl

@[simp] theorem plan_cfg (s : State) (ms : List HostMove) : (s.plan ms).cfg = s.cfg := rfl
@[simp] theorem plan_pc (s : State) (ms : List HostMove) : (s.plan ms).pc = s.pc := rfl
@[simp] theorem plan_progLen (s : State) (ms : List HostMove) : (s.plan ms).progLen = s.progLen := rfl
@[simp] theorem plan_loaded (s : State) (ms : List HostMove) : (s.plan ms).loaded = s.loaded := rfl
@[simp] theorem plan_fsm (s : State) (ms : List HostMove) : (s.plan ms).fsm = s.fsm := rfl
@[simp] theorem plan_done (s : State) (ms : List HostMove) : (s.plan ms).done = s.done := rfl
@[simp] theorem plan_fellOff (s : State) (ms : List HostMove) : (s.plan ms).fellOff = s.fellOff := rfl
@[simp] theorem plan_faultCause (s : State) (ms : List HostMove) : (s.plan ms).faultCause = s.faultCause := rfl
@[simp] theorem plan_faultPc (s : State) (ms : List HostMove) : (s.plan ms).faultPc = s.faultPc := rfl
@[simp] theorem plan_faultOp (s : State) (ms : List HostMove) : (s.plan ms).faultOp = s.faultOp := rfl
@[simp] theorem plan_faultArg (s : State) (ms : List HostMove) : (s.plan ms).faultArg = s.faultArg := rfl
@[simp] theorem plan_unk (s : State) (ms : List HostMove) : (s.plan ms).unk = s.unk := rfl
@[simp] theorem plan_unkCount (s : State) (ms : List HostMove) : (s.plan ms).unkCount = s.unkCount := rfl
@[simp] theorem plan_unkLast (s : State) (ms : List HostMove) : (s.plan ms).unkLast = s.unkLast := rfl
@[simp] theorem plan_bits (s : State) (ms : List HostMove) : (s.plan ms).bits = s.bits := rfl
@[simp] theorem plan_ints (s : State) (ms : List HostMove) : (s.plan ms).ints = s.ints := rfl
@[simp] theorem plan_prog (s : State) (ms : List HostMove) : (s.plan ms).prog = s.prog := rfl
@[simp] theorem plan_iomapX (s : State) (ms : List HostMove) : (s.plan ms).iomapX = s.iomapX := rfl
@[simp] theorem plan_iomapY (s : State) (ms : List HostMove) : (s.plan ms).iomapY = s.iomapY := rfl
@[simp] theorem plan_iomapA (s : State) (ms : List HostMove) : (s.plan ms).iomapA = s.iomapA := rfl
@[simp] theorem plan_cycleTime (s : State) (ms : List HostMove) : (s.plan ms).cycleTime = s.cycleTime := rfl
@[simp] theorem plan_memRdata (s : State) (ms : List HostMove) : (s.plan ms).memRdata = s.memRdata := rfl
@[simp] theorem plan_regRdata (s : State) (ms : List HostMove) : (s.plan ms).regRdata = s.regRdata := rfl
@[simp] theorem plan_loadReport (s : State) (ms : List HostMove) : (s.plan ms).loadReport = s.loadReport := rfl
@[simp] theorem plan_moves (s : State) (ms : List HostMove) : (s.plan ms).moves = ms ++ s.moves := rfl
@[simp] theorem plan_resets (s : State) (ms : List HostMove) : (s.plan ms).resets = s.resets := rfl
@[simp] theorem plan_draws (s : State) (ms : List HostMove) : (s.plan ms).draws = s.draws := rfl
@[simp] theorem setQuotient_cfg (s : State) (a : Nat) (divisor v : Word) : (s.setQuotient a divisor v).cfg = s.cfg := rfl
@[simp] theorem setQuotient_pc (s : State) (a : Nat) (divisor v : Word) : (s.setQuotient a divisor v).pc = s.pc := rfl
@[simp] theorem setQuotient_progLen (s : State) (a : Nat) (divisor v : Word) : (s.setQuotient a divisor v).progLen = s.progLen := rfl
@[simp] theorem setQuotient_loaded (s : State) (a : Nat) (divisor v : Word) : (s.setQuotient a divisor v).loaded = s.loaded := rfl
@[simp] theorem setQuotient_fsm (s : State) (a : Nat) (divisor v : Word) : (s.setQuotient a divisor v).fsm = s.fsm := rfl
@[simp] theorem setQuotient_done (s : State) (a : Nat) (divisor v : Word) : (s.setQuotient a divisor v).done = s.done := rfl
@[simp] theorem setQuotient_fellOff (s : State) (a : Nat) (divisor v : Word) : (s.setQuotient a divisor v).fellOff = s.fellOff := rfl
@[simp] theorem setQuotient_faultCause (s : State) (a : Nat) (divisor v : Word) : (s.setQuotient a divisor v).faultCause = s.faultCause := rfl
@[simp] theorem setQuotient_faultPc (s : State) (a : Nat) (divisor v : Word) : (s.setQuotient a divisor v).faultPc = s.faultPc := rfl
@[simp] theorem setQuotient_faultOp (s : State) (a : Nat) (divisor v : Word) : (s.setQuotient a divisor v).faultOp = s.faultOp := rfl
@[simp] theorem setQuotient_faultArg (s : State) (a : Nat) (divisor v : Word) : (s.setQuotient a divisor v).faultArg = s.faultArg := rfl
@[simp] theorem setQuotient_unk (s : State) (a : Nat) (divisor v : Word) : (s.setQuotient a divisor v).unk = s.unk := rfl
@[simp] theorem setQuotient_unkCount (s : State) (a : Nat) (divisor v : Word) : (s.setQuotient a divisor v).unkCount = s.unkCount := rfl
@[simp] theorem setQuotient_unkLast (s : State) (a : Nat) (divisor v : Word) : (s.setQuotient a divisor v).unkLast = s.unkLast := rfl
@[simp] theorem setQuotient_bits (s : State) (a : Nat) (divisor v : Word) : (s.setQuotient a divisor v).bits = s.bits := rfl
@[simp] theorem setQuotient_ints (s : State) (a : Nat) (divisor v : Word) : (s.setQuotient a divisor v).ints = if divisor = 0 then s.ints else Cells.write s.ints a v := rfl
@[simp] theorem setQuotient_prog (s : State) (a : Nat) (divisor v : Word) : (s.setQuotient a divisor v).prog = s.prog := rfl
@[simp] theorem setQuotient_iomapX (s : State) (a : Nat) (divisor v : Word) : (s.setQuotient a divisor v).iomapX = s.iomapX := rfl
@[simp] theorem setQuotient_iomapY (s : State) (a : Nat) (divisor v : Word) : (s.setQuotient a divisor v).iomapY = s.iomapY := rfl
@[simp] theorem setQuotient_iomapA (s : State) (a : Nat) (divisor v : Word) : (s.setQuotient a divisor v).iomapA = s.iomapA := rfl
@[simp] theorem setQuotient_cycleTime (s : State) (a : Nat) (divisor v : Word) : (s.setQuotient a divisor v).cycleTime = s.cycleTime := rfl
@[simp] theorem setQuotient_memRdata (s : State) (a : Nat) (divisor v : Word) : (s.setQuotient a divisor v).memRdata = s.memRdata := rfl
@[simp] theorem setQuotient_regRdata (s : State) (a : Nat) (divisor v : Word) : (s.setQuotient a divisor v).regRdata = s.regRdata := rfl
@[simp] theorem setQuotient_loadReport (s : State) (a : Nat) (divisor v : Word) : (s.setQuotient a divisor v).loadReport = s.loadReport := rfl
@[simp] theorem setQuotient_moves (s : State) (a : Nat) (divisor v : Word) : (s.setQuotient a divisor v).moves = s.moves := rfl
@[simp] theorem setQuotient_resets (s : State) (a : Nat) (divisor v : Word) : (s.setQuotient a divisor v).resets = s.resets := rfl
@[simp] theorem setQuotient_draws (s : State) (a : Nat) (divisor v : Word) : (s.setQuotient a divisor v).draws = s.draws := rfl

@[simp] theorem leave_cfg (s : State) (e : Exit) : (s.leave e).cfg = s.cfg := rfl
@[simp] theorem leave_progLen (s : State) (e : Exit) : (s.leave e).progLen = s.progLen := rfl
@[simp] theorem leave_loaded (s : State) (e : Exit) : (s.leave e).loaded = s.loaded := rfl
@[simp] theorem leave_fellOff (s : State) (e : Exit) : (s.leave e).fellOff = s.fellOff := rfl
@[simp] theorem leave_faultCause (s : State) (e : Exit) : (s.leave e).faultCause = s.faultCause := rfl
@[simp] theorem leave_faultPc (s : State) (e : Exit) : (s.leave e).faultPc = s.faultPc := rfl
@[simp] theorem leave_faultOp (s : State) (e : Exit) : (s.leave e).faultOp = s.faultOp := rfl
@[simp] theorem leave_faultArg (s : State) (e : Exit) : (s.leave e).faultArg = s.faultArg := rfl
@[simp] theorem leave_unk (s : State) (e : Exit) : (s.leave e).unk = s.unk := rfl
@[simp] theorem leave_unkCount (s : State) (e : Exit) : (s.leave e).unkCount = s.unkCount := rfl
@[simp] theorem leave_unkLast (s : State) (e : Exit) : (s.leave e).unkLast = s.unkLast := rfl
@[simp] theorem leave_bits (s : State) (e : Exit) : (s.leave e).bits = s.bits := rfl
@[simp] theorem leave_ints (s : State) (e : Exit) : (s.leave e).ints = s.ints := rfl
@[simp] theorem leave_prog (s : State) (e : Exit) : (s.leave e).prog = s.prog := rfl
@[simp] theorem leave_iomapX (s : State) (e : Exit) : (s.leave e).iomapX = s.iomapX := rfl
@[simp] theorem leave_iomapY (s : State) (e : Exit) : (s.leave e).iomapY = s.iomapY := rfl
@[simp] theorem leave_iomapA (s : State) (e : Exit) : (s.leave e).iomapA = s.iomapA := rfl
@[simp] theorem leave_cycleTime (s : State) (e : Exit) : (s.leave e).cycleTime = s.cycleTime := rfl
@[simp] theorem leave_memRdata (s : State) (e : Exit) : (s.leave e).memRdata = s.memRdata := rfl
@[simp] theorem leave_regRdata (s : State) (e : Exit) : (s.leave e).regRdata = s.regRdata := rfl
@[simp] theorem leave_loadReport (s : State) (e : Exit) : (s.leave e).loadReport = s.loadReport := rfl
@[simp] theorem leave_moves (s : State) (e : Exit) : (s.leave e).moves = s.moves := rfl
@[simp] theorem leave_resets (s : State) (e : Exit) : (s.leave e).resets = s.resets := rfl
@[simp] theorem leave_draws (s : State) (e : Exit) : (s.leave e).draws = s.draws := rfl
@[simp] theorem leave_next_pc (s : State) : (s.leave .next).pc = s.pc + 1 := rfl
@[simp] theorem leave_next_done (s : State) : (s.leave .next).done = s.done := rfl
@[simp] theorem leave_next_fsm (s : State) : (s.leave .next).fsm = s.fsm := rfl
@[simp] theorem leave_jump_pc (s : State) (t : Half) : (s.leave (.jump t)).pc = t := rfl
@[simp] theorem leave_jump_done (s : State) (t : Half) : (s.leave (.jump t)).done = s.done := rfl
@[simp] theorem leave_jump_fsm (s : State) (t : Half) : (s.leave (.jump t)).fsm = s.fsm := rfl
@[simp] theorem leave_stop_pc (s : State) : (s.leave .stop).pc = s.pc := rfl
@[simp] theorem leave_stop_done (s : State) : (s.leave .stop).done = true := rfl
@[simp] theorem leave_stop_fsm (s : State) : (s.leave .stop).fsm = .idle := rfl

end Sys2Proof.Machine
end

