-- ==== Sys2Proof/Laws/Exec.lean ====
section
/-! SUPPORT. What the shared operations and a step can do, said once. -/

namespace Sys2Proof.Machine

theorem inRange_iff (a : Half) (size : Nat) : inRange a size = true ↔ 0 ≤ a.toInt ∧ a.toInt < (size : Int) := by
  simp [inRange]

theorem cellOf_lt {a : Half} {size : Nat} (h : inRange a size = true) : cellOf a < size := by
  rw [inRange_iff] at h; unfold cellOf; omega

/-- A checked instruction either passes its checks and gives its result, or takes the first fault. -/
theorem checked_cases {x : Opcode} {ops : List Operand} {s r t : State} (h : checked x ops s r = .next t) :
    (firstViolation s ops = none ∧ t = r) ∨
    (∃ cause arg, firstViolation s ops = some (cause, arg) ∧ t = raiseFault cause (s.cfg.opcodeValue x) arg s) := by
  unfold checked at h
  split at h
  · rename_i cause arg hf
    exact .inr ⟨cause, arg, hf, (Host.Outcome.next.inj h).symm⟩
  · rename_i hf
    exact .inl ⟨hf, (Host.Outcome.next.inj h).symm⟩

/-- A checked instruction always answers a next state. -/
theorem checked_next (x : Opcode) (ops : List Operand) (s r : State) : ∃ t, checked x ops s r = .next t := by
  unfold checked; split <;> exact ⟨_, rfl⟩

/-- A list of checks passes exactly when every operand passes. -/
theorem firstViolation_none (s : State) (ops : List Operand) :
    firstViolation s ops = none ↔ ∀ o ∈ ops, o.violation s = none := by
  induction ops with
  | nil => simp [firstViolation]
  | cons o rest ih =>
    simp only [firstViolation, List.mem_cons, forall_eq_or_imp]
    cases ho : o.violation s <;> simp [ih]

/-- Every instruction answers a next state: a block fault is a state of the block. -/
theorem exec_next (i : Instr) (s : State) : ∃ t, exec i s = .next t := by
  cases i with
  | unrecognized op => exact ⟨_, rfl⟩
  | endScan | afwd | aknown | arslv => exact ⟨_, rfl⟩
  | _ => exact checked_next _ _ _ _

/-- The three things a step that answers a next state can be. -/
theorem step_next_cases {s t : State} (h : step s = .next t) :
    nextAction s = .become t ∨ ∃ i u, nextAction s = .run i u ∧ exec i u = .next t := by
  unfold step at h
  split at h
  · rename_i u hu; exact .inl (by rw [hu, Host.Outcome.next.inj h])
  · rename_i i u hu; exact .inr ⟨i, u, hu, h⟩
  · cases h

/-- A step never refuses. -/
theorem step_not_refused (s : State) (r : Refusal) : step s ≠ .refused r := by
  unfold step
  split
  · simp
  · rename_i i u _; obtain ⟨t, ht⟩ := exec_next i u; simp [ht]
  · simp

/-- The engine's turn: which of its cases applies. -/
theorem engineTurn_cases (s : State) :
    (s.fsm = .idle ∧ engineTurn s = .become s) ∨
    (s.fsm = .fault ∧ engineTurn s = .halt (.blockFaulted s.faultCause)) ∨
    (s.fsm = .run ∧ s.pc = s.progLen ∧ engineTurn s = .become s.fallOff) ∨
    (s.fsm = .run ∧ s.pc.toNat < s.progLen.toNat ∧ engineTurn s = .run s.fetch s) ∨
    (s.fsm = .run ∧ s.progLen.toNat < s.pc.toNat ∧ engineTurn s = .halt .fetchBeyondProgram) := by
  unfold engineTurn
  cases hf : s.fsm
  · simp
  · by_cases h1 : s.pc = s.progLen
    · simp [h1]
    · have h2 : s.pc.toNat ≠ s.progLen.toNat := fun h => h1 (BitVec.eq_of_toNat_eq h)
      by_cases h3 : s.pc.toNat < s.progLen.toNat
      · simp [h1, h3]
      · simp [h1, h3]; omega
  · simp

/-- What the block's turn can answer as a next state. -/
theorem engineTurn_next {u t : State}
    (h : (match engineTurn u with | .become v => Host.Outcome.next v | .run i v => exec i v | .halt f => .fault f) =
      .next t) :
    u.fsm ≠ .fault ∧ ((u.fsm = .idle ∧ t = u) ∨ (u.fsm = .run ∧ u.pc = u.progLen ∧ t = u.fallOff) ∨
      (u.fsm = .run ∧ u.pc.toNat < u.progLen.toNat ∧ exec u.fetch u = .next t)) := by
  rcases engineTurn_cases u with ⟨hf, he⟩ | ⟨hf, he⟩ | ⟨hf, hp, he⟩ | ⟨hf, hp, he⟩ | ⟨hf, hp, he⟩ <;>
    rw [he] at h <;> simp at h
  · exact ⟨by simp [hf], .inl ⟨hf, h.symm⟩⟩
  · exact ⟨by simp [hf], .inr (.inl ⟨hf, hp, h.symm⟩)⟩
  · exact ⟨by simp [hf], .inr (.inr ⟨hf, hp, h⟩)⟩

/-- Step inversion: a step that answers a next state is a move of the host the FSM allows, taken off the pending list, or
the block's turn, with the pending list as it was or one `pass` shorter. -/
theorem step_cases {s t : State} (h : step s = .next t) :
    (∃ m rest, s.moves = m :: rest ∧ m.allowed s.fsm = true ∧ t = performMove m { s with moves := rest }) ∨
    (s.fsm ≠ .fault ∧ ∃ ms, (ms = s.moves ∨ s.moves = .pass :: ms) ∧
      ((s.fsm = .idle ∧ t = { s with moves := ms }) ∨
       (s.fsm = .run ∧ s.pc = s.progLen ∧ t = State.fallOff { s with moves := ms }) ∨
       (s.fsm = .run ∧ s.pc.toNat < s.progLen.toNat ∧ exec s.fetch { s with moves := ms } = .next t))) := by
  unfold step nextAction at h
  rcases hm : s.moves with _ | ⟨m, rest⟩ <;> rw [hm] at h <;> simp only at h
  · obtain ⟨hf, hc⟩ := engineTurn_next h
    refine .inr ⟨hf, [], .inl rfl, ?_⟩
    rw [← hm]; exact hc
  · by_cases hp : m = .pass
    · subst hp
      by_cases hf : s.fsm = .fault
      · rw [if_pos rfl, if_pos hf] at h
        exact .inl ⟨_, _, rfl, by simp [hf, HostMove.allowed], (Host.Outcome.next.inj h).symm⟩
      · simp only [hf, if_true, if_false] at h
        obtain ⟨hf', hc⟩ := engineTurn_next h
        exact .inr ⟨hf', rest, .inr rfl, hc⟩
    · by_cases ha : m.allowed s.fsm = true
      · simp only [hp, ha, if_false, if_true] at h
        exact .inl ⟨_, _, rfl, ha, (Host.Outcome.next.inj h).symm⟩
      · simp only [hp, ha, if_false, Bool.false_eq_true] at h
        obtain ⟨hf', hc⟩ := engineTurn_next h
        exact .inr ⟨hf', s.moves, .inl hm, hc⟩

end Sys2Proof.Machine
end

