-- ==== Sys2Proof/Laws/PerInstr.lean ====
section
/-! SUPPORT. Statements made per instruction. Family EncodedFields: the record an instruction is encoded as holds the
fields the instruction is written with, in either byte order (spec 30 R81, R82). -/

namespace Sys2Proof.Laws.EncodedFields

/-- The fields of the encoded record are the instruction's own. -/
def Statement (i : Instr) : Prop := ∀ c : Config, fieldsOf c.byteOrder (encode c i) = i.fields c

theorem setb (n1 : Half) : Statement (.setb n1) := fun c => fieldsOf_recordOf c.byteOrder _
theorem clrb (n1 : Half) : Statement (.clrb n1) := fun c => fieldsOf_recordOf c.byteOrder _
theorem movb (n1 : Half) (n2 : Half) : Statement (.movb n1 n2) := fun c => fieldsOf_recordOf c.byteOrder _
theorem seti (n1 : Half) (lit : Word) : Statement (.seti n1 lit) := fun c => fieldsOf_recordOf c.byteOrder _
theorem movi (n1 : Half) (n2 : Half) : Statement (.movi n1 n2) := fun c => fieldsOf_recordOf c.byteOrder _
theorem inc (n1 : Half) : Statement (.inc n1) := fun c => fieldsOf_recordOf c.byteOrder _
theorem dec (n1 : Half) : Statement (.dec n1) := fun c => fieldsOf_recordOf c.byteOrder _
theorem add (n1 : Half) (n2 : Half) (n3 : Half) : Statement (.add n1 n2 n3) := fun c => fieldsOf_recordOf c.byteOrder _
theorem sub (n1 : Half) (n2 : Half) (n3 : Half) : Statement (.sub n1 n2 n3) := fun c => fieldsOf_recordOf c.byteOrder _
theorem mul (n1 : Half) (n2 : Half) (n3 : Half) : Statement (.mul n1 n2 n3) := fun c => fieldsOf_recordOf c.byteOrder _
theorem div (n1 : Half) (n2 : Half) (n3 : Half) : Statement (.div n1 n2 n3) := fun c => fieldsOf_recordOf c.byteOrder _
theorem mod (n1 : Half) (n2 : Half) (n3 : Half) : Statement (.mod n1 n2 n3) := fun c => fieldsOf_recordOf c.byteOrder _
theorem ifbs (n1 : Half) (n3 : Half) : Statement (.ifbs n1 n3) := fun c => fieldsOf_recordOf c.byteOrder _
theorem ifbc (n1 : Half) (n3 : Half) : Statement (.ifbc n1 n3) := fun c => fieldsOf_recordOf c.byteOrder _
theorem ifltl (n1 : Half) (lit : Word) (n3 : Half) : Statement (.ifltl n1 lit n3) := fun c => fieldsOf_recordOf c.byteOrder _
theorem ifeq (n1 : Half) (n2 : Half) (n3 : Half) : Statement (.ifeq n1 n2 n3) := fun c => fieldsOf_recordOf c.byteOrder _
theorem ifge (n1 : Half) (n2 : Half) (n3 : Half) : Statement (.ifge n1 n2 n3) := fun c => fieldsOf_recordOf c.byteOrder _
theorem ifle (n1 : Half) (n2 : Half) (n3 : Half) : Statement (.ifle n1 n2 n3) := fun c => fieldsOf_recordOf c.byteOrder _
theorem ifne (n1 : Half) (n2 : Half) (n3 : Half) : Statement (.ifne n1 n2 n3) := fun c => fieldsOf_recordOf c.byteOrder _
theorem ifgt (n1 : Half) (n2 : Half) (n3 : Half) : Statement (.ifgt n1 n2 n3) := fun c => fieldsOf_recordOf c.byteOrder _
theorem jmp (n3 : Half) : Statement (.jmp n3) := fun c => fieldsOf_recordOf c.byteOrder _
theorem endScan : Statement (.endScan) := fun c => fieldsOf_recordOf c.byteOrder _
theorem afwd : Statement (.afwd) := fun c => fieldsOf_recordOf c.byteOrder _
theorem aknown : Statement (.aknown) := fun c => fieldsOf_recordOf c.byteOrder _
theorem arslv : Statement (.arslv) := fun c => fieldsOf_recordOf c.byteOrder _
theorem unrecognized (op : Half) : Statement (.unrecognized op) := fun c => fieldsOf_recordOf c.byteOrder _

end Sys2Proof.Laws.EncodedFields
end

