-- ==== Sys2Proof/Tests/Slice0.lean ====
section
/-! SUPPORT. Small tests of the model, with expected results from the spec's own examples and vectors, and a witness for
the hypotheses of every statement. -/

namespace Sys2Proof.Tests

open Sys2Proof.Machine Sys2Proof.Safety

/-! ### Helpers -/

/-- The record a container line spells (30 R100). -/
def hexRecord (s : String) : Option Record :=
  match readRecord (ascii s) with
  | .ok w => some w
  | .error _ => none

/-- The instruction a container line spells under the reference parameters. -/
def decodeHex (s : String) : Option Instr := (hexRecord s).map (decode Config.reference)

/-- A scan at `pc`, in a program of `n` records, with the given memories. -/
def scanAt (pc n : Half) (bits : Cells 1) (ints : Cells 32) : State :=
  { State.reset with loaded := true, fsm := .run, pc := pc, progLen := n, bits := bits, ints := ints }

/-- The state after a container line's instruction is placed and stepped. -/
def runHex (s : String) (st : State) : Option State :=
  match hexRecord s with
  | some w =>
    match step (st.aboutToRun w) with
    | .next t => some t
    | .fault _ => none
    | .refused _ => none
  | none => none

/-- The state after some steps, if they all answer one. -/
def after : Nat → State → Option State
  | 0, s => some s
  | k + 1, s =>
    match step s with
    | .next t => after k t
    | .fault _ => none
    | .refused _ => none

/-- The error a container gives. -/
def loadErrorOf (text : String) : Option LoadError :=
  match readContainer Config.reference (.bytes (ascii text)) with
  | .ok _ => none
  | .error e => some e

/-- A signed value as an integer cell. -/
def word (z : Int) : Word := BitVec.ofInt 32 z

/-! ### Well-formedness -/

theorem test_wellFormed_refuses_a_named_number : (Instr.unrecognized 1).wellFormed Config.reference = false := by decide
theorem test_wellFormed_takes_an_unused_number : (Instr.unrecognized 26).wellFormed Config.reference = true := by decide
theorem test_admissible_refuses_zero_cells : ¬ ({ Config.reference with nb := 0 } : Config).Admissible := by decide
theorem test_admissible_refuses_a_shared_number :
    ¬ ({ Config.reference with opc := Config.reference.opc.set 1 1 } : Config).Admissible := by decide

/-! ### Decoding: records written out in the spec (30 R91, 41 to 44, 95) -/

theorem test_decode_setb : decodeHex "010000000000000000000000" = some (.setb 0) := by decide
theorem test_decode_clrb : decodeHex "020005000000000000000000" = some (.clrb 5) := by decide
theorem test_decode_movb : decodeHex "030003000200000000000000" = some (.movb 3 2) := by decide
theorem test_decode_seti : decodeHex "0400030000000000FFFFFFFF" = some (.seti 3 (word (-1))) := by decide
theorem test_decode_movi : decodeHex "050001000400000000000000" = some (.movi 1 4) := by decide
theorem test_decode_inc : decodeHex "060000000000000000000000" = some (.inc 0) := by decide
theorem test_decode_dec : decodeHex "070002000000000000000000" = some (.dec 2) := by decide
theorem test_decode_add : decodeHex "080001000200030000000000" = some (.add 1 2 3) := by decide
theorem test_decode_sub : decodeHex "090001000200030000000000" = some (.sub 1 2 3) := by decide
theorem test_decode_mul : decodeHex "0A0001000200030000000000" = some (.mul 1 2 3) := by decide
theorem test_decode_div : decodeHex "0B0002000000010000000000" = some (.div 2 0 1) := by decide
theorem test_decode_mod : decodeHex "0C0001000200030000000000" = some (.mod 1 2 3) := by decide
theorem test_decode_ifbs : decodeHex "0d0001000000050000000000" = some (.ifbs 1 5) := by decide
theorem test_decode_ifbc : decodeHex "0E0001000000050000000000" = some (.ifbc 1 5) := by decide
theorem test_decode_ifltl : decodeHex "0F000000000002000A000000" = some (.ifltl 0 10 2) := by decide
theorem test_decode_ifeq : decodeHex "100001000200070000000000" = some (.ifeq 1 2 7) := by decide
theorem test_decode_ifge : decodeHex "110001000200070000000000" = some (.ifge 1 2 7) := by decide
theorem test_decode_ifle : decodeHex "120001000200070000000000" = some (.ifle 1 2 7) := by decide
theorem test_decode_ifne : decodeHex "130001000200070000000000" = some (.ifne 1 2 7) := by decide
theorem test_decode_ifgt : decodeHex "140001000200070000000000" = some (.ifgt 1 2 7) := by decide
theorem test_decode_jmp : decodeHex "150000000000070000000000" = some (.jmp 7) := by decide
theorem test_decode_endScan : decodeHex "16000F270000000000000000" = some (.endScan) := by decide
theorem test_decode_afwd : decodeHex "1700FBFF2C01FFFF07000000" = some (.afwd) := by decide
theorem test_decode_aknown : decodeHex "1800FBFF2C01FFFF07000000" = some (.aknown) := by decide
theorem test_decode_arslv : decodeHex "190000000000000000000000" = some (.arslv) := by decide
theorem test_decode_unrecognized : decodeHex "E70300000000000000000000" = some (.unrecognized 999) := by decide
theorem test_decode_negative_address : decodeHex "0100FFFF0000000000000000" = some (.setb (BitVec.ofInt 16 (-1))) := by decide
theorem test_decode_big_endian :
    decode { Config.reference with byteOrder := .be } 0x0A0000000200000000000F00 = .ifltl 0 10 2 := by decide
theorem test_table_word : decodeTableWord 96 0x00000000000000000000000B = some (.div 0 0 0) := by decide
theorem test_decodeBytes_refuses_a_short_record :
    (match decodeBytes Config.reference [1, 0] with | .ok _ => none | .error e => some e) = some (.shortRecord 2) := by decide
theorem test_placed_word_is_the_first_after_reset :
    nextAction (State.reset.withFetchWord 96 0x15) = .run (.jmp 0) (State.reset.withFetchWord 96 0x15) := by rfl

/-! ### One step of each instruction (the examples of 41 to 44 and the vectors of 95 section 2) -/

theorem test_setb :
    (runHex "010000000000000000000000" (scanAt 0 10 [] [])).map (fun t => (t.bit 0, t.pc)) = some (1, 1) := by decide
theorem test_clrb :
    (runHex "020005000000000000000000" (scanAt 0 10 [(5, 1)] [])).map (fun t => (t.bits, t.pc)) = some ([], 1) := by decide
theorem test_movb :
    (runHex "030003000200000000000000" (scanAt 0 10 [(2, 1)] [])).map (fun t => (t.bit 3, t.bit 2)) = some (1, 1) := by decide
theorem test_movb_faults_on_n1_first :
    (runHex "0300C8002C01000000000000" (scanAt 0 10 [] [])).map (fun t => (t.faultCause, t.faultArg, t.pc)) = some (.bitAddr, 200, 0) := by decide
theorem test_seti :
    (runHex "040000000000000000000080" (scanAt 0 10 [] [])).map (fun t => t.int 0) = some (word (-2147483648)) := by decide
theorem test_movi :
    (runHex "050001000400000000000000" (scanAt 0 10 [] [(4, word (-9))])).map (fun t => t.int 1) = some (word (-9)) := by decide
theorem test_inc_wraps :
    (runHex "060000000000000000000000" (scanAt 0 10 [] [(0, word 2147483647)])).map (fun t => t.int 0) = some (word (-2147483648)) := by decide
theorem test_dec_below_zero :
    (runHex "070002000000000000000000" (scanAt 0 10 [] [])).map (fun t => t.int 2) = some (word (-1)) := by decide
theorem test_add_aliased :
    (runHex "080001000100010000000000" (scanAt 0 10 [] [(1, 21)])).map (fun t => t.int 1) = some (42) := by decide
theorem test_sub :
    (runHex "090001000200030000000000" (scanAt 0 10 [] [(2, 3), (3, 4)])).map (fun t => t.int 1) = some (word (-1)) := by decide
theorem test_mul_wraps :
    (runHex "0A0001000200030000000000" (scanAt 0 10 [] [(2, 46341), (3, 46341)])).map (fun t => t.int 1) = some (word (-2147479015)) := by decide
theorem test_div_truncates :
    (runHex "0B0001000200030000000000" (scanAt 0 10 [] [(2, word (-7)), (3, 2)])).map (fun t => t.int 1) = some (word (-3)) := by decide
theorem test_div_by_zero :
    (runHex "0B0002000000010000000000" (scanAt 0 10 [] [(0, 5), (2, 77)])).map (fun t => (t.int 2, t.pc, t.fsm)) = some (77, 1, .run) := by decide
theorem test_mod_sign_of_dividend :
    (runHex "0C0001000200030000000000" (scanAt 0 10 [] [(2, word (-7)), (3, 2)])).map (fun t => t.int 1) = some (word (-1)) := by decide
theorem test_mod_of_least_by_minus_one :
    (runHex "0C0001000200030000000000" (scanAt 0 10 [] [(1, 5), (2, word (-2147483648)), (3, word (-1))])).map (fun t => t.int 1) = some (0) := by decide
theorem test_ifbs_jumps :
    (runHex "0D0001000000050000000000" (scanAt 2 10 [] [])).map (fun t => t.pc) = some (5) := by decide
theorem test_ifbc_falls_through :
    (runHex "0E0001000000050000000000" (scanAt 2 10 [] [])).map (fun t => t.pc) = some (3) := by decide
theorem test_ifltl_equal_jumps :
    (runHex "0F000000000002000A000000" (scanAt 0 10 [] [(0, 10)])).map (fun t => t.pc) = some (2) := by decide
theorem test_ifeq_falls_through :
    (runHex "100001000200070000000000" (scanAt 3 10 [] [(1, 4), (2, 4)])).map (fun t => t.pc) = some (4) := by decide
theorem test_ifge_is_signed :
    (runHex "110001000200070000000000" (scanAt 3 10 [] [(1, word (-1))])).map (fun t => t.pc) = some (7) := by decide
theorem test_ifle_is_signed :
    (runHex "120001000200070000000000" (scanAt 3 10 [] [(1, word (-1))])).map (fun t => t.pc) = some (4) := by decide
theorem test_ifne_equal_jumps :
    (runHex "130001000200070000000000" (scanAt 3 10 [] [(1, 4), (2, 4)])).map (fun t => t.pc) = some (7) := by decide
theorem test_ifgt_falls_through :
    (runHex "140001000200070000000000" (scanAt 3 10 [] [(1, 5), (2, 4)])).map (fun t => t.pc) = some (4) := by decide
theorem test_jmp :
    (runHex "150000000000070000000000" (scanAt 5 8 [] [])).map (fun t => t.pc) = some (7) := by decide
theorem test_jmp_beyond_faults :
    (runHex "150000000000080000000000" (scanAt 5 8 [] [])).map (fun t => (t.faultCause, t.faultPc, t.faultOp, t.faultArg, t.status)) = some (.jumpTarget, 5, 21, 8, 0x00000309) := by decide
theorem test_end :
    (runHex "16000F270000000000000000" (scanAt 1 2 [] [])).map (fun t => (t.pc, t.done, t.fellOff, t.fsm)) = some (1, true, false, .idle) := by decide
theorem test_afwd :
    (runHex "1700FBFF2C01FFFF07000000" (scanAt 1 6 [] [])).map (fun t => (t.pc, t.fsm)) = some (2, .run) := by decide
theorem test_aknown :
    (runHex "180000000000000000000000" (scanAt 0 2 [] [])).map (fun t => (t.pc, t.fsm)) = some (1, .run) := by decide
theorem test_arslv :
    (runHex "190000000000000000000000" (scanAt 2 6 [] [])).map (fun t => (t.pc, t.fsm)) = some (3, .run) := by decide
theorem test_unrecognized :
    (runHex "E70300000000000000000000" (scanAt 0 2 [] [])).map (fun t => (t.pc, t.unk, t.unkCount, t.unkLast)) = some (1, true, 1, 999) := by decide
theorem test_unrecognized_saturates :
    (runHex "E70300000000000000000000" { scanAt 0 2 [] [] with unkCount := 0xFFFF }).map (fun t => (t.pc, t.unkCount)) = some (1, 0xFFFF) := by decide

/-! ### The sequencer and the host (95 L2.7) -/

theorem test_start_with_nothing_loaded :
    (after 1 { State.reset with moves := [.op .start] }).map
      (fun t => (t.fsm, t.faultCause, t.faultPc, t.faultOp, t.faultArg, t.done)) =
      some (.fault, .notLoaded, 0, 0, 0, false) := by decide
theorem test_empty_program_falls_off :
    (after 3 { State.reset with moves := [.op (.progCommit 0), .op .start] }).map
      (fun t => (t.fsm, t.pc, t.done, t.fellOff)) = some (.idle, 0, true, true) := by decide
theorem test_commit_beyond_capacity : applyOp (.progCommit 1025) State.reset = State.reset := by decide
theorem test_memWrite_takes_bit_zero : (applyOp (.memWrite .bit 7 2) State.reset).bit 7 = 0 := by decide
theorem test_memWrite_in_fault :
    (applyOp (.memWrite .integer 3 42) { State.reset with fsm := .fault }).int 3 = 42 := by decide
theorem test_register_9_reads_zero : State.reset.register 9 = 0 := by decide
theorem test_read_inputs_writes_the_mapped_cell :
    (after 3 { State.reset with iomapX := [none, some 5], moves := [.readInputs [(0, 1), (1, 1), (9, 1)], .pass] }).map
      (fun t => (t.bits, t.moves)) = some ([(5, 1)], []) := by decide
theorem test_a_faulted_block_stops :
    step { State.reset with fsm := .fault, faultCause := .bitAddr } = .fault (.blockFaulted .bitAddr) := by rfl
theorem test_a_move_waits_for_the_scan :
    (after 1 { scanAt 10 10 [] [] with moves := [.op (.memWrite .bit 0 1)] }).map (fun t => (t.bit 0, t.fsm, t.moves)) =
      some (0, .idle, [.op (.memWrite .bit 0 1)]) := by decide

/-! ### The loader and the text forms (95 L1.1, L2.8, 30 R120 to R123) -/

theorem test_load_set_bit_scenario :
    (after 1 { State.reset with moves := [.load (.bytes (ascii "$$LDcode\n010000000000000000000000\n160000000000000000000000\n$$cycle10000"))] }).map
      (fun t => (t.prog, t.progLen, t.loaded, t.cycleTime)) = some ([(0, 1), (1, 22)], 2, true, 10000) := by decide
theorem test_load_maps :
    (match readContainer Config.reference (.bytes (ascii "$$LDcode\r\n160000000000000000000000\r\n$$bits\r\nX3,5\r\nX3,9\r\nX16,5\r\nXstart,5\r\nA0,2\r\n")) with
      | .ok p => some (p.tables.x[3]?, p.tables.a[0]?, p.tables.cycleTime)
      | .error _ => none) = some (some (some 9), some (some 2), 10000) := by decide
theorem test_load_cycle_not_a_number : loadErrorOf "$$LDcode\n160000000000000000000000\n$$cycleabc" = some .badCycle := by decide
theorem test_load_cycle_zero : loadErrorOf "$$LDcode\n160000000000000000000000\n$$cycle0" = some .badCycle := by decide
theorem test_load_cycle_spaces : loadErrorOf "$$LDcode\n160000000000000000000000\n$$cycle 250" = none := by decide
theorem test_load_signature_case : loadErrorOf "$$LDCODE\n160000000000000000000000\n$$cycle1" = some .badSignature := by decide
theorem test_load_short_line : loadErrorOf "$$LDcode\n16000000000000000000000\n$$cycle1" = some .badLength := by decide
theorem test_load_empty_line : loadErrorOf "$$LDcode\n\n160000000000000000000000\n$$cycle1" = some .badLength := by decide
theorem test_load_bad_hex : loadErrorOf "$$LDcode\n0D00010000000500000000G0\n$$cycle1" = some .badHex := by decide
theorem test_load_no_sentinel : loadErrorOf "$$LDcode\n160000000000000000000000" = some .truncated := by decide
theorem test_load_no_end : loadErrorOf "$$LDcode\n010000000000000000000000\n$$cycle1" = some .noEnd := by decide
theorem test_load_two_ends : loadErrorOf "$$LDcode\n160000000000000000000000\n160000000000000000000000\n$$cycle1" = some .manyEnd := by decide
theorem test_load_target : loadErrorOf "$$LDcode\n150000000000050000000000\n160000000000000000000000\n$$cycle1" = some .badTarget := by decide
theorem test_load_address_unchecked : loadErrorOf "$$LDcode\n0100C8000000000000000000\n160000000000000000000000\n$$cycle1" = none := by decide

/-- The counter program P5 of 95 section 3. -/
def counterRecords : List Record := [0x0000000A0002000000000000 + 0xF, 6, 22]

theorem test_assemble_counter :
    (match assemble Config.reference (ascii "  IFLTL i0, #10, done  ; unless count < 10\n  INC i0\ndone: END\n") with
      | .ok ws => some ws
      | .error _ => none) = some counterRecords := by decide
theorem test_assemble_pseudo :
    (match assemble Config.reference (ascii "NOP\nGOTO @-1\n.op 999\nSETI i3, #0xFFFFFFFF") with
      | .ok ws => some (ws.map (decode Config.reference))
      | .error _ => none) = some [.arslv, .jmp (BitVec.ofInt 16 (-1)), .unrecognized 999, .seti 3 (word (-1))] := by decide
theorem test_assemble_unknown_label :
    (match assemble Config.reference (ascii "JMP nowhere") with
      | .ok _ => none
      | .error e => some e) = some (.unknownLabel 1) := by decide
theorem test_disassemble :
    disassemble Config.reference [0x0000000A0002000000000000 + 0xF, 999] =
      [ascii "0: unless int[0] < 10 goto 2", ascii "1: bad code op=999", ascii "1 bad code(s)"] := by decide

/-! ### Witnesses: for every statement with hypotheses, a state and operands that meet each clause's hypotheses -/

/-- The spec's `s16` value of an integer. -/
def half (z : Int) : Half := BitVec.ofInt 16 z

/-- A scan about to run `JMP @9` at 2 of 10 records. -/
def jumpState : State := (scanAt 2 10 [] []).aboutToRun 0x0009000000000015

/-- A scan about to run `JMP @10` at 2 of 10 records, which faults. -/
def badJumpState : State := (scanAt 2 10 [] []).aboutToRun 0x000A000000000015

/-- A faulted block. -/
def faultedState : State := { State.reset with fsm := .fault, faultCause := .intAddr, faultArg := 128 }

/-- The container of L1.6 with two mapping lines. -/
def setBitImage : Image :=
  ⟨[1, 22], { HostTables.empty Config.reference with x := (HostTables.empty Config.reference).x.set 15 (some 32767) }⟩

/-- The bytes of a small program: `IFBS b0, @1` and `END`. -/
def smallProgram : List Byte := ascii "$$LDcode\n0D0000000000010000000000\n160000000000000000000000\n$$cycle1"

/-- What `smallProgram` is read as. -/
def smallImage : Image := ⟨[0x000100000000000D, 22], { HostTables.empty Config.reference with cycleTime := 1 }⟩

theorem enginesTurn_of_no_moves (s : State) (h : s.fsm = .run) (hm : s.moves = []) : EnginesTurn s :=
  ⟨h, fun _ _ hc => by rw [hm] at hc; cases hc⟩

theorem witness_DecodeOfEncodeIsTheInstruction :
    Config.reference.Admissible ∧ (Instr.seti (half (-32768)) (word (-2147483648))).wellFormed Config.reference = true ∧
    (Instr.unrecognized 65535).wellFormed Config.reference = true ∧
    (Instr.unrecognized 0).wellFormed Config.reference = true := by decide

theorem witness_OpFieldAloneSelectsTheOpcode :
    Config.reference.Admissible ∧ Config.reference.byteOrder = .le ∧
    ∀ x, Config.reference.opcodeValue x ≠ (fieldsOf Config.reference.byteOrder 26).op :=
  ⟨by decide, rfl, fun x => by cases x <;> decide⟩

theorem witness_ReencodingKeepsTheInstruction : Config.reference.Admissible := by decide

theorem witness_ContainerRoundTrips :
    Config.reference.Admissible ∧ setBitImage.records.length ≤ Config.reference.maxOps ∧
    checkProgram Config.reference setBitImage.records = .ok () ∧
    MapOk setBitImage.tables.x Config.reference.nx ∧ MapOk setBitImage.tables.y Config.reference.ny ∧
    MapOk setBitImage.tables.a Config.reference.na ∧
    1 ≤ setBitImage.tables.cycleTime ∧ setBitImage.tables.cycleTime ≤ 2147483647 :=
  ⟨by decide, by decide, rfl, by decide, by decide, by decide, by decide, by decide⟩

theorem witness_LineEndingsMakeNoDifference :
    ∀ l ∈ [signature, []], lineFeed ∉ l ∧ carriageReturn ∉ l := by decide

theorem witness_StepRunsTheDecodedInstruction :
    EnginesTurn jumpState ∧ jumpState.pc.toNat < jumpState.progLen.toNat ∧
    EnginesTurn { jumpState with moves := [.op .start] } ∧
    ({ jumpState with moves := [.pass] } : State).fsm = .run :=
  ⟨enginesTurn_of_no_moves _ rfl rfl, by decide,
    ⟨rfl, fun m rest h => by cases h; exact ⟨by decide, by decide⟩⟩, rfl⟩

theorem witness_ScanEndsAtTheLastSlot :
    EnginesTurn (scanAt 10 10 [] []) ∧ (scanAt 10 10 [] []).pc = (scanAt 10 10 [] []).progLen :=
  ⟨enginesTurn_of_no_moves _ rfl rfl, rfl⟩

theorem witness_PlacedWordRunsNext : ({ State.reset with pc := 65534 } : State).pc.toNat < 65535 := by decide

/-- The state of the per-instruction witnesses. -/
def operandState : State := scanAt 2 10 [(1, 1)] [(2, word 2147483647), (3, word (-2147483648))]

/-! Each instruction's statement: a record its encoding clause covers, and operands in range at both ends and out of it on
both sides, with the values its cases ask for. -/

theorem witness_SetbWritesOne :
    Config.reference.Admissible ∧
    (fieldsOf Config.reference.byteOrder 1).op = Config.reference.opcodeValue .setb ∧
    Valid 127 operandState.cfg.nb ∧ Valid 0 operandState.cfg.nb ∧ ¬ Valid 128 operandState.cfg.nb ∧ ¬ Valid (half (-1)) operandState.cfg.nb := by decide

theorem witness_ClrbWritesZero :
    Config.reference.Admissible ∧
    (fieldsOf Config.reference.byteOrder 2).op = Config.reference.opcodeValue .clrb ∧
    Valid 127 operandState.cfg.nb ∧ Valid 0 operandState.cfg.nb ∧ ¬ Valid 128 operandState.cfg.nb ∧ ¬ Valid (half (-1)) operandState.cfg.nb := by decide

theorem witness_MovbCopiesTheSourceBit :
    Config.reference.Admissible ∧
    (fieldsOf Config.reference.byteOrder 3).op = Config.reference.opcodeValue .movb ∧
    Valid 127 operandState.cfg.nb ∧ Valid 0 operandState.cfg.nb ∧ ¬ Valid 128 operandState.cfg.nb ∧ ¬ Valid (half (-1)) operandState.cfg.nb := by decide

theorem witness_SetiWritesTheLiteral :
    Config.reference.Admissible ∧
    (fieldsOf Config.reference.byteOrder 4).op = Config.reference.opcodeValue .seti ∧
    Valid 127 operandState.cfg.ni ∧ Valid 0 operandState.cfg.ni ∧ ¬ Valid 128 operandState.cfg.ni ∧ ¬ Valid (half (-1)) operandState.cfg.ni := by decide

theorem witness_MoviCopiesTheSourceCell :
    Config.reference.Admissible ∧
    (fieldsOf Config.reference.byteOrder 5).op = Config.reference.opcodeValue .movi ∧
    Valid 127 operandState.cfg.ni ∧ Valid 0 operandState.cfg.ni ∧ ¬ Valid 128 operandState.cfg.ni ∧ ¬ Valid (half (-1)) operandState.cfg.ni := by decide

theorem witness_IncAddsOne :
    Config.reference.Admissible ∧
    (fieldsOf Config.reference.byteOrder 6).op = Config.reference.opcodeValue .inc ∧
    Valid 127 operandState.cfg.ni ∧ Valid 0 operandState.cfg.ni ∧ ¬ Valid 128 operandState.cfg.ni ∧ ¬ Valid (half (-1)) operandState.cfg.ni ∧
    (operandState.int 2).toInt = 2147483647 := by decide

theorem witness_DecSubtractsOne :
    Config.reference.Admissible ∧
    (fieldsOf Config.reference.byteOrder 7).op = Config.reference.opcodeValue .dec ∧
    Valid 127 operandState.cfg.ni ∧ Valid 0 operandState.cfg.ni ∧ ¬ Valid 128 operandState.cfg.ni ∧ ¬ Valid (half (-1)) operandState.cfg.ni ∧
    (operandState.int 3).toInt = -2147483648 := by decide

theorem witness_AddWritesTheWrappedSum :
    Config.reference.Admissible ∧
    (fieldsOf Config.reference.byteOrder 8).op = Config.reference.opcodeValue .add ∧
    Valid 127 operandState.cfg.ni ∧ Valid 0 operandState.cfg.ni ∧ ¬ Valid 128 operandState.cfg.ni ∧ ¬ Valid (half (-1)) operandState.cfg.ni := by decide

theorem witness_SubWritesTheWrappedDifference :
    Config.reference.Admissible ∧
    (fieldsOf Config.reference.byteOrder 9).op = Config.reference.opcodeValue .sub ∧
    Valid 127 operandState.cfg.ni ∧ Valid 0 operandState.cfg.ni ∧ ¬ Valid 128 operandState.cfg.ni ∧ ¬ Valid (half (-1)) operandState.cfg.ni := by decide

theorem witness_MulWritesTheWrappedProduct :
    Config.reference.Admissible ∧
    (fieldsOf Config.reference.byteOrder 10).op = Config.reference.opcodeValue .mul ∧
    Valid 127 operandState.cfg.ni ∧ Valid 0 operandState.cfg.ni ∧ ¬ Valid 128 operandState.cfg.ni ∧ ¬ Valid (half (-1)) operandState.cfg.ni := by decide

theorem witness_DivWritesTheTruncatedQuotient :
    Config.reference.Admissible ∧
    (fieldsOf Config.reference.byteOrder 11).op = Config.reference.opcodeValue .div ∧
    Valid 127 operandState.cfg.ni ∧ Valid 0 operandState.cfg.ni ∧ ¬ Valid 128 operandState.cfg.ni ∧ ¬ Valid (half (-1)) operandState.cfg.ni ∧
    operandState.int (cellOf 2) ≠ 0 ∧ operandState.int (cellOf 4) = 0 := by decide

theorem witness_ModWritesTheRemainder :
    Config.reference.Admissible ∧
    (fieldsOf Config.reference.byteOrder 12).op = Config.reference.opcodeValue .mod ∧
    Valid 127 operandState.cfg.ni ∧ Valid 0 operandState.cfg.ni ∧ ¬ Valid 128 operandState.cfg.ni ∧ ¬ Valid (half (-1)) operandState.cfg.ni ∧
    operandState.int (cellOf 2) ≠ 0 ∧ operandState.int (cellOf 4) = 0 := by decide

theorem witness_IfbsJumpsUnlessTheBitIsSet :
    Config.reference.Admissible ∧
    (fieldsOf Config.reference.byteOrder 13).op = Config.reference.opcodeValue .ifbs ∧
    Valid 127 operandState.cfg.nb ∧ Valid 0 operandState.cfg.nb ∧ ¬ Valid 128 operandState.cfg.nb ∧ ¬ Valid (half (-1)) operandState.cfg.nb ∧
    Valid 9 operandState.progLen.toNat ∧ Valid 0 operandState.progLen.toNat ∧ ¬ Valid 10 operandState.progLen.toNat ∧ ¬ Valid (half (-1)) operandState.progLen.toNat ∧
    operandState.bit (cellOf 1) = 1 ∧ ¬ operandState.bit (cellOf 2) = 1 := by decide

theorem witness_IfbcJumpsUnlessTheBitIsClear :
    Config.reference.Admissible ∧
    (fieldsOf Config.reference.byteOrder 14).op = Config.reference.opcodeValue .ifbc ∧
    Valid 127 operandState.cfg.nb ∧ Valid 0 operandState.cfg.nb ∧ ¬ Valid 128 operandState.cfg.nb ∧ ¬ Valid (half (-1)) operandState.cfg.nb ∧
    Valid 9 operandState.progLen.toNat ∧ Valid 0 operandState.progLen.toNat ∧ ¬ Valid 10 operandState.progLen.toNat ∧ ¬ Valid (half (-1)) operandState.progLen.toNat ∧
    operandState.bit (cellOf 2) = 0 ∧ ¬ operandState.bit (cellOf 1) = 0 := by decide

theorem witness_IfltlJumpsUnlessLessThanTheLiteral :
    Config.reference.Admissible ∧
    (fieldsOf Config.reference.byteOrder 15).op = Config.reference.opcodeValue .ifltl ∧
    Valid 127 operandState.cfg.ni ∧ Valid 0 operandState.cfg.ni ∧ ¬ Valid 128 operandState.cfg.ni ∧ ¬ Valid (half (-1)) operandState.cfg.ni ∧
    Valid 9 operandState.progLen.toNat ∧ Valid 0 operandState.progLen.toNat ∧ ¬ Valid 10 operandState.progLen.toNat ∧ ¬ Valid (half (-1)) operandState.progLen.toNat ∧
    (operandState.int (cellOf 3)).toInt < (word 0).toInt ∧ ¬ (operandState.int (cellOf 2)).toInt < (word 0).toInt := by decide

theorem witness_IfeqJumpsUnlessEqual :
    Config.reference.Admissible ∧
    (fieldsOf Config.reference.byteOrder 16).op = Config.reference.opcodeValue .ifeq ∧
    Valid 127 operandState.cfg.ni ∧ Valid 0 operandState.cfg.ni ∧ ¬ Valid 128 operandState.cfg.ni ∧ ¬ Valid (half (-1)) operandState.cfg.ni ∧
    Valid 9 operandState.progLen.toNat ∧ Valid 0 operandState.progLen.toNat ∧ ¬ Valid 10 operandState.progLen.toNat ∧ ¬ Valid (half (-1)) operandState.progLen.toNat ∧
    operandState.int (cellOf 4) = operandState.int (cellOf 5) ∧ ¬ operandState.int (cellOf 2) = operandState.int (cellOf 3) := by decide

theorem witness_RelationalSkipsCompareTwoCells :
    Config.reference.Admissible ∧
    (fieldsOf Config.reference.byteOrder 17).op = Config.reference.opcodeValue .ifge ∧
    (fieldsOf Config.reference.byteOrder 18).op = Config.reference.opcodeValue .ifle ∧
    (fieldsOf Config.reference.byteOrder 19).op = Config.reference.opcodeValue .ifne ∧
    (fieldsOf Config.reference.byteOrder 20).op = Config.reference.opcodeValue .ifgt ∧
    Valid 127 operandState.cfg.ni ∧ Valid 0 operandState.cfg.ni ∧ ¬ Valid 128 operandState.cfg.ni ∧ ¬ Valid (half (-1)) operandState.cfg.ni ∧
    Valid 9 operandState.progLen.toNat ∧ Valid 0 operandState.progLen.toNat ∧ ¬ Valid 10 operandState.progLen.toNat ∧ ¬ Valid (half (-1)) operandState.progLen.toNat ∧
    (operandState.int (cellOf 2)).toInt > (operandState.int (cellOf 3)).toInt ∧ (operandState.int (cellOf 4)).toInt = (operandState.int (cellOf 5)).toInt := by decide

theorem witness_JmpSetsThePc :
    Config.reference.Admissible ∧
    (fieldsOf Config.reference.byteOrder 21).op = Config.reference.opcodeValue .jmp ∧
    Valid 9 operandState.progLen.toNat ∧ Valid 0 operandState.progLen.toNat ∧ ¬ Valid 10 operandState.progLen.toNat ∧ ¬ Valid (half (-1)) operandState.progLen.toNat := by decide

theorem witness_EndEndsTheScan :
    Config.reference.Admissible ∧
    (fieldsOf Config.reference.byteOrder 22).op = Config.reference.opcodeValue .endScan := by decide

theorem witness_MarkersOnlyAdvance :
    Config.reference.Admissible ∧
    (fieldsOf Config.reference.byteOrder 23).op = Config.reference.opcodeValue .afwd ∧
    (fieldsOf Config.reference.byteOrder 24).op = Config.reference.opcodeValue .aknown ∧
    (fieldsOf Config.reference.byteOrder 25).op = Config.reference.opcodeValue .arslv := by decide

theorem witness_DivisionTruncatesTowardZero :
    word (-1) ≠ 0 ∧ (word (-2147483648)).toInt = -2147483648 ∧ (word (-1)).toInt = -1 ∧
    ¬ ((word 7).toInt = -2147483648 ∧ (word (-2)).toInt = -1) ∧ 0 < (aluMod (word 7) (word (-2))).toInt ∧
    (aluMod (word (-7)) (word 2)).toInt < 0 := by decide

theorem witness_InstructionsChangeOnlyTheirCell :
    exec (.seti 127 5) (scanAt 2 10 [] []) = .next { scanAt 3 10 [] [] with ints := [(127, 5)] } ∧
    destination (.seti 127 5) ≠ some (.integer, 126) ∧ destination (.seti 127 5) ≠ some (.bit, 127) ∧
    ∀ op, Instr.seti 127 5 ≠ .unrecognized op :=
  ⟨rfl, by decide, by decide, fun _ h => by cases h⟩

theorem witness_FaultsArePrecise :
    exec (.jmp 10) (scanAt 2 10 [] []) = .next (faultState .jumpTarget 21 10 (scanAt 2 10 [] [])) ∧
    (scanAt 2 10 [] []).fsm = .run ∧ (faultState .jumpTarget 21 10 (scanAt 2 10 [] [])).fsm = .fault := ⟨rfl, rfl, rfl⟩

theorem witness_PcMovesByOutcome :
    exec (.jmp 9) (scanAt 2 10 [] []) = .next (scanAt 9 10 [] []) ∧ (scanAt 2 10 [] []).fsm = .run := ⟨rfl, rfl⟩

theorem witness_ResetMoveResetsTheBlock :
    ({ jumpState with moves := [.op .reset] } : State).moves = .op .reset :: [] := rfl

theorem witness_ConsistentAtReset : Config.reference.Admissible := by decide

theorem witness_ConsistentIsKeptByEveryStep :
    Consistent jumpState ∧ step jumpState = .next { jumpState with pc := 9 } := ⟨by decide, rfl⟩

theorem witness_OnlyAFaultedBlockStops : Consistent jumpState ∧ Consistent faultedState := ⟨by decide, by decide⟩

theorem witness_ConfigurationIsFixed : step jumpState = .next { jumpState with pc := 9 } := rfl

theorem witness_FaultIsLeftOnlyByReset :
    ({ faultedState with moves := [.op .start] } : State).fsm = .fault ∧
    step { faultedState with moves := [.op .start] } = .next faultedState ∧
    ¬ ResetComes { faultedState with moves := [.op .start] } :=
  ⟨rfl, rfl, fun ⟨_, h⟩ => by cases h⟩

theorem witness_FaultRecordChangesOnlyOnEntryOrReset :
    step jumpState = .next { jumpState with pc := 9 } ∧ ¬ ResetComes jumpState ∧
    ¬ (jumpState.fsm ≠ .fault ∧ ({ jumpState with pc := 9 } : State).fsm = .fault) :=
  ⟨rfl, (fun ⟨_, h⟩ => by cases h), by decide⟩

theorem witness_UnknownCountNeverFalls :
    step { jumpState with unk := true } = .next { jumpState with unk := true, pc := 9 } ∧
    ¬ ResetComes { jumpState with unk := true } ∧ ({ jumpState with unk := true } : State).unk = true :=
  ⟨rfl, (fun ⟨_, h⟩ => by cases h), rfl⟩

theorem witness_HostMovesWaitWhileAScanRuns :
    jumpState.fsm = .run ∧ HostMove.op .start ≠ .pass ∧ (HostMove.op .start).allowed .run = false ∧
    step { jumpState with moves := [] } = .next { jumpState with moves := [], pc := 9 } :=
  ⟨rfl, by decide, rfl, rfl⟩

theorem witness_SelfJumpHangsTheScan :
    ((scanAt 2 10 [] []).aboutToRun 0x0002000000000015).fsm = .run ∧
    ((scanAt 2 10 [] []).aboutToRun 0x0002000000000015).moves = [] ∧
    ((scanAt 2 10 [] []).aboutToRun 0x0002000000000015).fetch = .jmp 2 ∧
    ((scanAt 2 10 [] []).aboutToRun 0x0002000000000015).pc = 2 ∧
    Valid 2 ((scanAt 2 10 [] []).aboutToRun 0x0002000000000015).progLen.toNat := by decide

theorem witness_ScanExecutorReachesTheEnd :
    runScan 1 (scanAt 10 10 [] []) =
      some { scanAt 10 10 [] [] with fsm := .idle, done := true, fellOff := true } := by decide

/-- A RUN state and an IDLE state under the conditions of the other direction: one step on, and none. -/
theorem witness_ScanExecutorReachesTheEnd_converse :
    Host.Core.run core 1 (scanAt 10 10 [] []) =
      .next { scanAt 10 10 [] [] with fsm := .idle, done := true, fellOff := true } ∧
    (∀ i u, i < 1 → Host.Core.run core i (scanAt 10 10 [] []) = .next u → u.fsm = .run) ∧
    Host.Core.run core 0 State.reset = .next State.reset ∧ State.reset.fsm ≠ .run :=
  ⟨rfl, fun i u hi h => by
    obtain rfl : i = 0 := by omega
    exact (Host.Outcome.next.inj h) ▸ rfl, rfl, by decide⟩

theorem witness_HostMovesAreMadeWhenAllowed :
    ({ jumpState with moves := [.op (.regRead 1)] } : State).moves = [.op (.regRead 1)] ∧
    HostMove.op (.regRead 1) ≠ .pass ∧ (HostMove.op (.regRead 1)).allowed jumpState.fsm = true ∧
    (HostMove.period []).allowed State.reset.fsm = true ∧
    ({ faultedState with moves := [.pass] } : State).moves = [.pass] ∧ faultedState.fsm ≠ .run ∧
    State.reset.fsm ≠ .run := by decide

theorem witness_StartBeginsAScanOrFaults :
    State.reset.fsm = .idle ∧ State.reset.loaded = false ∧ ({ State.reset with loaded := true } : State).loaded = true ∧
    faultedState.fsm ≠ .idle := by decide

theorem witness_ProgramOperationsAct :
    State.reset.fsm ≠ .run ∧ State.reset.loaded = false ∧ (1023 : Half).toNat < State.reset.cfg.maxOps ∧
    State.reset.cfg.maxOps ≤ (1024 : Half).toNat ∧ (1024 : Half).toNat ≤ State.reset.cfg.maxOps ∧
    State.reset.cfg.maxOps < (1025 : Half).toNat := by decide

theorem witness_HostWritesOneCell :
    faultedState.fsm ≠ .run ∧ Valid 127 faultedState.cfg.nb ∧ Valid 127 faultedState.cfg.ni ∧
    ¬ Valid 128 faultedState.cfg.nb ∧ ¬ Valid (half (-1)) faultedState.cfg.ni := by decide

theorem witness_HostReadsTheCell :
    State.reset.fsm ≠ .run ∧ Valid 0 State.reset.cfg.nb ∧ Valid 127 State.reset.cfg.ni := by decide

theorem witness_RegisterPortReadsEachRegister : 8 ≤ (8 : BitVec 4).toNat ∧ 8 ≤ (15 : BitVec 4).toNat := by decide

theorem witness_AcceptedProgramsAreWellFormed :
    Config.reference.Admissible ∧ readContainer Config.reference (.bytes smallProgram) = .ok smallImage :=
  ⟨by decide, rfl⟩

theorem witness_LoadCommitsTheProgram :
    State.reset.cfg.Admissible ∧ State.reset.fsm ≠ .run ∧
    readContainer State.reset.cfg (.bytes smallProgram) = .ok smallImage :=
  ⟨by decide, by decide, rfl⟩

theorem witness_FailedLoadLeavesNothingLoaded :
    State.reset.fsm ≠ .run ∧ readContainer State.reset.cfg .unreadable = .error .unreadable ∧ State.reset.fsm = .idle :=
  ⟨by decide, rfl, rfl⟩

/-- A scan of the one-record program `JMP @0`, with a host that passes, and the same before its Start. -/
def loopState : State :=
  { State.reset with loaded := true, fsm := .run, progLen := 1, prog := [(0, 0x15)], moves := [.pass] }

theorem witness_LoadedProgramsNeverFaultOnATarget :
    State.reset.cfg.Admissible ∧ State.reset.fsm ≠ .run ∧
    readContainer State.reset.cfg (.bytes smallProgram) = .ok smallImage ∧
    Consistent loopState ∧ TargetsFit loopState ∧ (∀ m ∈ loopState.moves, ¬ ProgramsByHand m) ∧
    loopState.faultCause ≠ .jumpTarget ∧ step loopState = .next { loopState with moves := [] } ∧
    Host.Core.run core 2 loopState = .next { loopState with moves := [] } ∧
    TargetsFit { loopState with fsm := .idle, moves := [.op .start] } ∧
    step { loopState with fsm := .idle, moves := [.op .start] } = .next { loopState with moves := [] } :=
  ⟨by decide, by decide, rfl, by decide, by decide, by simp [loopState], by decide, rfl, rfl, by decide, rfl⟩

theorem witness_DisassemblyCountsBadCodes :
    1 < [(22 : Record), 999].length ∧
    ([(22 : Record), 999].filter (fun w => decide ((decode Config.reference w).opcode = none))).length = 1 := by decide

end Sys2Proof.Tests
end

section
/-! The opcode a word decodes to is the one whose number its `op` field holds, and that field is the word's bytes 0-1
(spec 30 R81, R82, R87). -/

namespace Sys2Proof

/-! ### The numbering -/

theorem Opcode.mem_all (x : Opcode) : x ∈ Opcode.all := by cases x <;> decide

theorem Opcode.getElem_all_index (x : Opcode) : Opcode.all[x.index.val]? = some x := by cases x <;> rfl

theorem Opcode.index_injective : Function.Injective Opcode.index := by
  intro x y h
  have hxy : some x = some y := by rw [← getElem_all_index x, h, getElem_all_index y]
  exact Option.some.inj hxy

/-- No two opcodes share a number (00 R6). -/
theorem Config.opcodeValue_injective {c : Config} (hc : c.opc.toList.Nodup) :
    Function.Injective c.opcodeValue := by
  intro x y h
  have hval : x.index.val = y.index.val :=
    (hc.getElem_inj_iff (hi := by simp) (hj := by simp)).mp h
  exact Opcode.index_injective (Fin.ext hval)

theorem Config.opcodeValue_of_opcodeOf {c : Config} {v : Half} {x : Opcode} (h : c.opcodeOf v = some x) :
    c.opcodeValue x = v := by
  rw [Config.opcodeOf] at h
  simpa using List.find?_some h

theorem Config.opcodeOf_eq_some_iff {c : Config} (hc : c.opc.toList.Nodup) {v : Half} {x : Opcode} :
    c.opcodeOf v = some x ↔ c.opcodeValue x = v := by
  constructor
  · exact Config.opcodeValue_of_opcodeOf
  · intro hx
    have hsome : (c.opcodeOf v).isSome := List.find?_isSome.mpr ⟨x, x.mem_all, beq_iff_eq.mpr hx⟩
    obtain ⟨y, hy⟩ := Option.isSome_iff_exists.mp hsome
    have hyx : y = x := Config.opcodeValue_injective hc ((Config.opcodeValue_of_opcodeOf hy).trans hx.symm)
    rw [hy, hyx]

theorem Config.opcodeOf_eq_none_iff {c : Config} {v : Half} :
    c.opcodeOf v = none ↔ ∀ x, c.opcodeValue x ≠ v := by
  simp [Config.opcodeOf, Opcode.mem_all]

/-! ### The decoder -/

@[simp] theorem opcode_instrOf (x : Opcode) (f : Fields) : (instrOf x f).opcode = some x := by cases x <;> rfl

theorem decode_of_opcodeOf_eq_none {c : Config} {w : Record}
    (h : c.opcodeOf (fieldsOf c.byteOrder w).op = none) :
    decode c w = .unrecognized (fieldsOf c.byteOrder w).op := by
  simp only [decode, h]

theorem decode_of_opcodeOf_eq_some {c : Config} {w : Record} {x : Opcode}
    (h : c.opcodeOf (fieldsOf c.byteOrder w).op = some x) :
    decode c w = instrOf x (fieldsOf c.byteOrder w) := by
  simp only [decode, h]

theorem opcode_decode (c : Config) (w : Record) :
    (decode c w).opcode = c.opcodeOf (fieldsOf c.byteOrder w).op := by
  cases h : c.opcodeOf (fieldsOf c.byteOrder w).op with
  | none => rw [decode_of_opcodeOf_eq_none h, Instr.opcode]
  | some x => rw [decode_of_opcodeOf_eq_some h, opcode_instrOf]

theorem opcode_decode_eq_some_iff {c : Config} (hc : c.opc.toList.Nodup) (w : Record) (x : Opcode) :
    (decode c w).opcode = some x ↔ c.opcodeValue x = (fieldsOf c.byteOrder w).op := by
  rw [opcode_decode, Config.opcodeOf_eq_some_iff hc]

/-! ### The `op` field as match and mask -/

@[simp] theorem halfByte_zero (bo : ByteOrder) (j : Nat) : halfByte bo 0 j = 0 := by
  cases bo <;> simp [halfByte]

@[simp] theorem wordByte_zero (bo : ByteOrder) (j : Nat) : wordByte bo 0 j = 0 := by
  cases bo <;> simp [wordByte]

/-- The record that holds `op = v` and 0 in every other field. -/
def opRecord (bo : ByteOrder) (v : Half) : Record := recordOf bo ⟨v, 0, 0, 0, 0⟩

theorem opRecord_injective (bo : ByteOrder) : Function.Injective (opRecord bo) := by
  intro u v h
  have hf := congrArg (fun w => (fieldsOf bo w).op) h
  simpa only [opRecord, fieldsOf_recordOf] using hf

theorem halfByte_halfOfBytes (bo : ByteOrder) (b0 b1 : Byte) :
    halfByte bo (halfOfBytes bo b0 b1) 0 = b0 ∧ halfByte bo (halfOfBytes bo b0 b1) 1 = b1 := by
  have low (a b : Byte) : (a ++ b).extractLsb' 0 8 = b := BitVec.extractLsb'_append_eq_right
  have high (a b : Byte) : (a ++ b).extractLsb' 8 8 = a := BitVec.extractLsb'_append_eq_left
  cases bo with
  | le => exact ⟨low b1 b0, high b1 b0⟩
  | be => exact ⟨high b0 b1, low b0 b1⟩

/-- The bytes of `op` stand in the low 16 bits, byte 0 lowest, in either byte order (30 R80, R82). -/
theorem opRecord_eq_setWidth (bo : ByteOrder) (v : Half) :
    opRecord bo v = (halfByte bo v 1 ++ halfByte bo v 0).setWidth 96 := by
  calc opRecord bo v
      = 0#80 ++ halfByte bo v 1 ++ halfByte bo v 0 := by
        simp only [opRecord, recordOf, recordOfBytes, halfByte_zero, wordByte_zero]
        rfl
    _ = (halfByte bo v 1 ++ halfByte bo v 0).setWidth 96 := by
        rw [BitVec.append_assoc, BitVec.setWidth_eq_append (by decide)]

theorem opRecord_le (v : Half) : opRecord .le v = v.zeroExtend 96 := by
  rw [opRecord_eq_setWidth]
  exact congrArg _ (halfOfBytes_halfByte .le v)

theorem low_bytes_eq_setWidth (w : Record) : recordByte w 1 ++ recordByte w 0 = w.setWidth 16 := by
  have hlow : recordByte w 1 ++ recordByte w 0 = w.extractLsb' 0 16 :=
    BitVec.extractLsb'_append_extractLsb'_eq_extractLsb' rfl
  rw [hlow, BitVec.setWidth_eq_extractLsb' (by decide)]

theorem mask_eq_setWidth (w : Record) : w &&& 0xFFFF = (w.setWidth 16).setWidth 96 := by
  apply BitVec.eq_of_toNat_eq
  have hmod : (w &&& 0xFFFF).toNat = w.toNat % 2 ^ 16 := Nat.and_two_pow_sub_one_eq_mod w.toNat 16
  rw [hmod, BitVec.toNat_setWidth, BitVec.toNat_setWidth]
  omega

/-- Masking bytes 0-1 keeps the `op` field and clears the others. -/
theorem mask_eq_opRecord (bo : ByteOrder) (w : Record) : w &&& 0xFFFF = opRecord bo (fieldsOf bo w).op := by
  obtain ⟨h0, h1⟩ := halfByte_halfOfBytes bo (recordByte w 0) (recordByte w 1)
  rw [opRecord_eq_setWidth, fieldsOf, h0, h1, low_bytes_eq_setWidth, mask_eq_setWidth]

theorem mask_eq_opRecord_iff (bo : ByteOrder) (w : Record) (v : Half) :
    w &&& 0xFFFF = opRecord bo v ↔ v = (fieldsOf bo w).op := by
  rw [mask_eq_opRecord bo w, (opRecord_injective bo).eq_iff, eq_comm]

/-- Settles O3: the decoder looks up the `op` field in a numbering without repetitions, and that field is what the mask
leaves of the word. -/
theorem opFieldAloneSelectsTheOpcode : Obligations.OpFieldAloneSelectsTheOpcode := by
  intro c w ⟨_, _, _, hnodup, _, _⟩
  refine ⟨opcode_decode_eq_some_iff hnodup w, ?unrecognized, ?mask, ?littleEndian⟩
  case unrecognized =>
    exact fun h => decode_of_opcodeOf_eq_none (Config.opcodeOf_eq_none_iff.mpr h)
  case mask =>
    exact fun x => (opcode_decode_eq_some_iff hnodup w x).trans (mask_eq_opRecord_iff c.byteOrder w _).symm
  case littleEndian =>
    intro hle x
    rw [hle]
    exact opRecord_le _

end Sys2Proof
end

section
/-! Bit assignment (spec 41): the decoder's half of an instruction's row in the opcode table, the checks of 40 R137 to
R139 operand by operand, and the store of a bit cell; the three instructions are assembled from these. -/

namespace Sys2Proof

open Machine Safety

/-! ### The row of the opcode table -/

/-- In an admissible numbering a word whose `op` field is an opcode's number decodes to that opcode's form (30 R87). -/
theorem decode_of_op_eq {c : Config} {w : Record} {x : Opcode} (hc : c.Admissible)
    (hop : (fieldsOf c.byteOrder w).op = c.opcodeValue x) : decode c w = instrOf x (fieldsOf c.byteOrder w) := by
  obtain ⟨_, _, _, hnodup, _, _⟩ := hc
  exact decode_of_opcodeOf_eq_some ((Config.opcodeOf_eq_some_iff hnodup).mpr hop.symm)

theorem encodedAs_of_instrOf {x : Opcode} {reference : Half} {build : Fields → Instr}
    (href : Config.reference.opcodeValue x = reference) (hbuild : ∀ f, instrOf x f = build f) :
    EncodedAs x reference build :=
  ⟨href, fun _ _ hc hop => (decode_of_op_eq hc hop).trans (hbuild _)⟩

/-! ### The checks, operand by operand -/

section

variable {s : State}

theorem violation_bit_of_valid {a : Half} (h : Valid a s.cfg.nb) : (Operand.bit a).violation s = none :=
  if_pos ((inRange_iff a s.cfg.nb).mpr h)

theorem violation_bit_of_not_valid {a : Half} (h : ¬ Valid a s.cfg.nb) :
    (Operand.bit a).violation s = some (.bitAddr, a) :=
  if_neg (mt (inRange_iff a s.cfg.nb).mp h)

variable {x : Opcode} {o : Operand} {rest : List Operand} {r : State}

theorem checked_nil : checked x [] s r = .next r := rfl

/-- An operand that passes leaves the outcome to the operands after it (40 R139). -/
theorem checked_cons_of_passes (h : o.violation s = none) : checked x (o :: rest) s r = checked x rest s r := by
  simp only [checked, firstViolation, h]

/-- An operand that fails is the one reported, whatever follows it (40 R139, 60 R244). -/
theorem checked_cons_of_violates {cause : FaultCause} {arg : Half} (h : o.violation s = some (cause, arg)) :
    checked x (o :: rest) s r = .next (faultState cause (s.cfg.opcodeValue x) arg s) := by
  simp only [checked, firstViolation, h, raiseFault, enterFault]

theorem checked_bit_of_valid {a : Half} (h : Valid a s.cfg.nb) :
    checked x (.bit a :: rest) s r = checked x rest s r :=
  checked_cons_of_passes (violation_bit_of_valid h)

theorem checked_bit_of_not_valid {a : Half} (h : ¬ Valid a s.cfg.nb) :
    checked x (.bit a :: rest) s r = .next (faultState .bitAddr (s.cfg.opcodeValue x) a s) :=
  checked_cons_of_violates (violation_bit_of_not_valid h)

end

/-! ### The store -/

/-- Writing a bit cell and going on is the whole effect of an instruction that stores a bit. -/
theorem storesBit_setBit_leave_next (s : State) (a : Nat) (v : Bit) :
    StoresBit a v s ((s.setBit a v).leave .next) :=
  ⟨read_write_same s.bits a v, fun _ hb => read_write_other s.bits a v hb, rfl⟩

/-- What SETB and CLRB share: form `B1` with a constant stored. -/
theorem storesBit_or_faults_of_formB1 {i : Instr} {x : Opcode} {s : State} {n1 : Half} {v : Bit}
    (hexec : exec i s = checked x (formB1 n1) s ((s.setBit (cellOf n1) v).leave .next)) :
    (Valid n1 s.cfg.nb → ∃ t, exec i s = .next t ∧ StoresBit (cellOf n1) v s t) ∧
    (¬ Valid n1 s.cfg.nb → TakesFault i s x .bitAddr n1) := by
  constructor
  · intro h1
    refine ⟨_, ?_, storesBit_setBit_leave_next s _ v⟩
    rw [hexec, formB1, checked_bit_of_valid h1, checked_nil]
  · intro h1
    rw [TakesFault, hexec, formB1, checked_bit_of_not_valid h1]

/-! ### The instructions -/

/-- Settles O11: SETB is form `B1` that stores 1. -/
theorem setbWritesOne : Obligations.SetbWritesOne :=
  ⟨encodedAs_of_instrOf rfl (fun _ => rfl), fun _ _ => storesBit_or_faults_of_formB1 rfl⟩

/-- Settles O12: CLRB is form `B1` that stores 0. -/
theorem clrbWritesZero : Obligations.ClrbWritesZero :=
  ⟨encodedAs_of_instrOf rfl (fun _ => rfl), fun _ _ => storesBit_or_faults_of_formB1 rfl⟩

/-- Settles O13: the checks of form `B2` are made in field order, and the source is read from the state before the
store. -/
theorem movbCopiesTheSourceBit : Obligations.MovbCopiesTheSourceBit := by
  refine ⟨encodedAs_of_instrOf rfl (fun _ => rfl), fun s n1 n2 => ?_⟩
  have hexec : exec (.movb n1 n2) s =
      checked .movb (formB2 n1 n2) s ((s.setBit (cellOf n1) (s.bit (cellOf n2))).leave .next) := rfl
  refine ⟨?bothValid, ?badDestination, ?badSource⟩
  case bothValid =>
    intro h1 h2
    refine ⟨_, ?_, storesBit_setBit_leave_next s _ _⟩
    rw [hexec, formB2, checked_bit_of_valid h1, checked_bit_of_valid h2, checked_nil]
  case badDestination =>
    intro h1
    rw [TakesFault, hexec, formB2, checked_bit_of_not_valid h1]
  case badSource =>
    intro h1 h2
    rw [TakesFault, hexec, formB2, checked_bit_of_valid h1, checked_bit_of_not_valid h2]

end Sys2Proof
end

section
/-! Integer assignment and arithmetic (spec 42): the checks of an integer address, the store of an integer cell, what
the forms `I1`/`IL`, `I2` and `I3` make of a checked store, and the signed value of an incremented cell; the seven
instructions are assembled from these. -/

namespace Sys2Proof

open Machine Safety

/-! ### The checks of an integer address -/

section

variable {s : State}

theorem violation_int_of_valid {a : Half} (h : Valid a s.cfg.ni) : (Operand.int a).violation s = none :=
  if_pos ((inRange_iff a s.cfg.ni).mpr h)

theorem violation_int_of_not_valid {a : Half} (h : ¬ Valid a s.cfg.ni) :
    (Operand.int a).violation s = some (.intAddr, a) :=
  if_neg (mt (inRange_iff a s.cfg.ni).mp h)

variable {x : Opcode} {rest : List Operand} {r : State}

theorem checked_int_of_valid {a : Half} (h : Valid a s.cfg.ni) :
    checked x (.int a :: rest) s r = checked x rest s r :=
  checked_cons_of_passes (violation_int_of_valid h)

theorem checked_int_of_not_valid {a : Half} (h : ¬ Valid a s.cfg.ni) :
    checked x (.int a :: rest) s r = .next (faultState .intAddr (s.cfg.opcodeValue x) a s) :=
  checked_cons_of_violates (violation_int_of_not_valid h)

end

/-! ### The store, under the checks of each form -/

/-- Writing an integer cell and going on is the whole effect of an instruction that stores an integer. -/
theorem storesInt_setInt_leave_next (s : State) (a : Nat) (v : Word) :
    StoresInt a v s ((s.setInt a v).leave .next) :=
  ⟨read_write_same s.ints a v, fun _ hb => read_write_other s.ints a v hb, rfl⟩

section

variable {i : Instr} {x : Opcode} {s : State} {n1 n2 n3 : Half} {v : Word}

/-- What SETI, INC and DEC share: forms `IL` and `I1` check `n1` alone (30 R84, R85). -/
theorem storesInt_or_faults_of_formI1
    (hexec : exec i s = checked x (formI1 n1) s ((s.setInt (cellOf n1) v).leave .next)) :
    (Valid n1 s.cfg.ni → ∃ t, exec i s = .next t ∧ StoresInt (cellOf n1) v s t) ∧
    (¬ Valid n1 s.cfg.ni → TakesFault i s x .intAddr n1) := by
  constructor
  · intro h1
    refine ⟨_, ?_, storesInt_setInt_leave_next s _ v⟩
    rw [hexec, formI1, checked_int_of_valid h1, checked_nil]
  · intro h1
    rw [TakesFault, hexec, formI1, checked_int_of_not_valid h1]

/-- The same with the signed value of what is stored given apart. -/
theorem storesInt_toInt_or_faults_of_formI1 {z : Int}
    (hexec : exec i s = checked x (formI1 n1) s ((s.setInt (cellOf n1) v).leave .next)) (hv : v.toInt = z) :
    (Valid n1 s.cfg.ni → ∃ t u, exec i s = .next t ∧ StoresInt (cellOf n1) u s t ∧ u.toInt = z) ∧
    (¬ Valid n1 s.cfg.ni → TakesFault i s x .intAddr n1) := by
  obtain ⟨hstores, hfaults⟩ := storesInt_or_faults_of_formI1 hexec
  refine ⟨fun h1 => ?_, hfaults⟩
  obtain ⟨t, hnext, hstore⟩ := hstores h1
  exact ⟨t, v, hnext, hstore, hv⟩

/-- Form `I3` with its three addresses in range gives the instruction's own result. -/
theorem exec_of_formI3_of_valid {r : State} (hexec : exec i s = checked x (formI3 n1 n2 n3) s r)
    (h1 : Valid n1 s.cfg.ni) (h2 : Valid n2 s.cfg.ni) (h3 : Valid n3 s.cfg.ni) : exec i s = .next r := by
  rw [hexec, formI3, checked_int_of_valid h1, checked_int_of_valid h2, checked_int_of_valid h3, checked_nil]

/-- Form `I3` reports the first bad address in field order, whatever the result would be (40 R139). -/
theorem faultsI3_of_formI3 {r : State} (hexec : exec i s = checked x (formI3 n1 n2 n3) s r) :
    FaultsI3 i x s n1 n2 n3 := by
  refine ⟨?badDestination, ?badLeft, ?badRight⟩
  case badDestination =>
    intro h1
    rw [TakesFault, hexec, formI3, checked_int_of_not_valid h1]
  case badLeft =>
    intro h1 h2
    rw [TakesFault, hexec, formI3, checked_int_of_valid h1, checked_int_of_not_valid h2]
  case badRight =>
    intro h1 h2 h3
    rw [TakesFault, hexec, formI3, checked_int_of_valid h1, checked_int_of_valid h2, checked_int_of_not_valid h3]

/-- What ADD, SUB and MUL share: form `I3` whose result is computed from the state before the store. -/
theorem storesInt_or_faults_of_formI3
    (hexec : exec i s = checked x (formI3 n1 n2 n3) s ((s.setInt (cellOf n1) v).leave .next)) :
    (Valid n1 s.cfg.ni → Valid n2 s.cfg.ni → Valid n3 s.cfg.ni →
      ∃ t, exec i s = .next t ∧ StoresInt (cellOf n1) v s t) ∧
    FaultsI3 i x s n1 n2 n3 :=
  ⟨fun h1 h2 h3 => ⟨_, exec_of_formI3_of_valid hexec h1 h2 h3, storesInt_setInt_leave_next s _ v⟩,
    faultsI3_of_formI3 hexec⟩

end

/-! ### One more and one less -/

/-- An integer that a signed 32-bit cell can hold is not changed by `wrap32` (00 R7). -/
theorem toInt_wrap32_of_mem_range {z : Int} (hlo : -2147483648 ≤ z) (hhi : z ≤ 2147483647) :
    (wrap32 z).toInt = z := by
  rw [wrap32, BitVec.toInt_ofInt]
  exact Int.bmod_eq_of_le (by omega) (by omega)

/-- 42 R182: the greatest value wraps to the least. -/
theorem toInt_aluInc (a : Word) :
    (aluInc a).toInt = if a.toInt = 2147483647 then -2147483648 else a.toInt + 1 := by
  have hlo : -2 ^ (32 - 1) ≤ a.toInt := a.le_toInt
  have hhi : a.toInt < 2 ^ (32 - 1) := a.toInt_lt
  split
  next hmax => rw [aluInc, hmax]; rfl
  next hmax => exact toInt_wrap32_of_mem_range (by omega) (by omega)

/-- 42 R183: the least value wraps to the greatest. -/
theorem toInt_aluDec (a : Word) :
    (aluDec a).toInt = if a.toInt = -2147483648 then 2147483647 else a.toInt - 1 := by
  have hlo : -2 ^ (32 - 1) ≤ a.toInt := a.le_toInt
  have hhi : a.toInt < 2 ^ (32 - 1) := a.toInt_lt
  split
  next hmin => rw [aluDec, hmin]; rfl
  next hmin => exact toInt_wrap32_of_mem_range (by omega) (by omega)

/-! ### The instructions -/

/-- Settles O14: SETI checks `n1` alone and stores the literal whole. -/
theorem setiWritesTheLiteral : Obligations.SetiWritesTheLiteral :=
  ⟨encodedAs_of_instrOf rfl (fun _ => rfl), fun _ _ _ => storesInt_or_faults_of_formI1 rfl⟩

/-- Settles O15: the checks of form `I2` are made in field order, and the source is read from the state before the
store. -/
theorem moviCopiesTheSourceCell : Obligations.MoviCopiesTheSourceCell := by
  refine ⟨encodedAs_of_instrOf rfl (fun _ => rfl), fun s n1 n2 => ?_⟩
  have hexec : exec (.movi n1 n2) s =
      checked .movi (formI2 n1 n2) s ((s.setInt (cellOf n1) (s.int (cellOf n2))).leave .next) := rfl
  refine ⟨?bothValid, ?badDestination, ?badSource⟩
  case bothValid =>
    intro h1 h2
    refine ⟨_, ?_, storesInt_setInt_leave_next s _ _⟩
    rw [hexec, formI2, checked_int_of_valid h1, checked_int_of_valid h2, checked_nil]
  case badDestination =>
    intro h1
    rw [TakesFault, hexec, formI2, checked_int_of_not_valid h1]
  case badSource =>
    intro h1 h2
    rw [TakesFault, hexec, formI2, checked_int_of_valid h1, checked_int_of_not_valid h2]

/-- Settles O16: INC is form `I1` that stores `aluInc` of the cell (42 R177). -/
theorem incAddsOne : Obligations.IncAddsOne :=
  ⟨encodedAs_of_instrOf rfl (fun _ => rfl), fun _ _ => storesInt_toInt_or_faults_of_formI1 rfl (toInt_aluInc _)⟩

/-- Settles O17: DEC is form `I1` that stores `aluDec` of the cell (42 R177). -/
theorem decSubtractsOne : Obligations.DecSubtractsOne :=
  ⟨encodedAs_of_instrOf rfl (fun _ => rfl), fun _ _ => storesInt_toInt_or_faults_of_formI1 rfl (toInt_aluDec _)⟩

/-- Settles O18: ADD is form `I3` that stores `aluAdd` of the sources (42 R171). -/
theorem addWritesTheWrappedSum : Obligations.AddWritesTheWrappedSum :=
  ⟨encodedAs_of_instrOf rfl (fun _ => rfl), fun _ _ _ _ => storesInt_or_faults_of_formI3 rfl⟩

/-- Settles O19: SUB is form `I3` that stores `aluSub` of the sources, `n2` the minuend (42 R172). -/
theorem subWritesTheWrappedDifference : Obligations.SubWritesTheWrappedDifference :=
  ⟨encodedAs_of_instrOf rfl (fun _ => rfl), fun _ _ _ _ => storesInt_or_faults_of_formI3 rfl⟩

/-- Settles O20: MUL is form `I3` that stores `aluMul` of the sources (42 R173). -/
theorem mulWritesTheWrappedProduct : Obligations.MulWritesTheWrappedProduct :=
  ⟨encodedAs_of_instrOf rfl (fun _ => rfl), fun _ _ _ _ => storesInt_or_faults_of_formI3 rfl⟩

end Sys2Proof
end

section
/-! Conditional skip (spec 43): the check of a jump target, the two ways out of a conditional, and what the forms `CB`,
`CL` and `CI` make of a checked skip, each check peeled off in field order; the four instructions are assembled from
these. -/

namespace Sys2Proof

open Machine Safety

/-! ### The check of a jump target -/

section

variable {s : State}

theorem violation_target_of_valid {a : Half} (h : Valid a s.progLen.toNat) : (Operand.target a).violation s = none :=
  if_pos ((inRange_iff a s.progLen.toNat).mpr h)

theorem violation_target_of_not_valid {a : Half} (h : ¬ Valid a s.progLen.toNat) :
    (Operand.target a).violation s = some (.jumpTarget, a) :=
  if_neg (mt (inRange_iff a s.progLen.toNat).mp h)

variable {x : Opcode} {rest : List Operand} {r : State}

theorem checked_target_of_valid {a : Half} (h : Valid a s.progLen.toNat) :
    checked x (.target a :: rest) s r = checked x rest s r :=
  checked_cons_of_passes (violation_target_of_valid h)

theorem checked_target_of_not_valid {a : Half} (h : ¬ Valid a s.progLen.toNat) :
    checked x (.target a :: rest) s r = .next (faultState .jumpTarget (s.cfg.opcodeValue x) a s) :=
  checked_cons_of_violates (violation_target_of_not_valid h)

end

/-! ### The two ways out -/

theorem leave_next (s : State) : s.leave .next = { s with pc := s.pc + 1 } := rfl

theorem leave_jump (s : State) (n3 : Half) : s.leave (.jump n3) = { s with pc := n3 } := rfl

/-- A result that leaves by `unless_` is the unless-semantics of what its test decides (43 R200). -/
theorem unless_of_exec {i : Instr} {s : State} {n3 : Half} {test : Bool} {cond : Prop} (htest : test = true ↔ cond)
    (hexec : exec i s = .next (s.leave (unless_ test n3))) : Unless cond i s n3 := by
  constructor
  · intro hcond
    rw [hexec, unless_, if_pos (htest.mpr hcond), leave_next]
  · intro hcond
    rw [hexec, unless_, if_neg (mt htest.mp hcond), leave_jump]

/-- Cells are equal exactly when their signed values are, which is what the relation compares (43 R201). -/
theorem relation_eq_test_iff (a b : Word) : Relation.eq.test a b = true ↔ a = b :=
  decide_eq_true_iff.trans BitVec.toInt_inj

/-! ### The skip, under the checks of each form -/

section

variable {i : Instr} {x : Opcode} {s : State} {n1 n2 n3 : Half} {test : Bool} {cond : Prop}

/-- The target is the last operand checked, and it is checked whatever the test holds (40 R138). -/
theorem unless_or_faults_of_target (htest : test = true ↔ cond)
    (hexec : exec i s = checked x [.target n3] s (s.leave (unless_ test n3))) :
    (Valid n3 s.progLen.toNat → Unless cond i s n3) ∧
    (¬ Valid n3 s.progLen.toNat → TakesFault i s x .jumpTarget n3) := by
  constructor
  · intro h3
    refine unless_of_exec htest ?_
    rw [hexec, checked_target_of_valid h3, checked_nil]
  · intro h3
    rw [TakesFault, hexec, checked_target_of_not_valid h3]

/-- What forms `CB` and `CL` share: one address, then the target (40 R139). -/
theorem unless_or_faults_of_address_target {o : Operand} {inBank : Prop} {cause : FaultCause}
    (hpasses : inBank → o.violation s = none) (hviolates : ¬ inBank → o.violation s = some (cause, n1))
    (htest : test = true ↔ cond) (hexec : exec i s = checked x [o, .target n3] s (s.leave (unless_ test n3))) :
    (inBank → Valid n3 s.progLen.toNat → Unless cond i s n3) ∧
    (¬ inBank → TakesFault i s x cause n1) ∧
    (inBank → ¬ Valid n3 s.progLen.toNat → TakesFault i s x .jumpTarget n3) := by
  have htarget (h1 : inBank) :=
    unless_or_faults_of_target htest (hexec.trans (checked_cons_of_passes (hpasses h1)))
  refine ⟨fun h1 => (htarget h1).1, ?badAddress, fun h1 => (htarget h1).2⟩
  intro h1
  rw [TakesFault, hexec, checked_cons_of_violates (hviolates h1)]

theorem unless_or_faults_of_formCB (htest : test = true ↔ cond)
    (hexec : exec i s = checked x (formCB n1 n3) s (s.leave (unless_ test n3))) :
    (Valid n1 s.cfg.nb → Valid n3 s.progLen.toNat → Unless cond i s n3) ∧ FaultsCB i x s n1 n3 :=
  unless_or_faults_of_address_target violation_bit_of_valid violation_bit_of_not_valid htest hexec

/-- The literal of form `CL` is used whole and not checked (30 R85). -/
theorem unless_or_faults_of_formCL (htest : test = true ↔ cond)
    (hexec : exec i s = checked x (formCL n1 n3) s (s.leave (unless_ test n3))) :
    (Valid n1 s.cfg.ni → Valid n3 s.progLen.toNat → Unless cond i s n3) ∧
    (¬ Valid n1 s.cfg.ni → TakesFault i s x .intAddr n1) ∧
    (Valid n1 s.cfg.ni → ¬ Valid n3 s.progLen.toNat → TakesFault i s x .jumpTarget n3) :=
  unless_or_faults_of_address_target violation_int_of_valid violation_int_of_not_valid htest hexec

/-- Form `CI` checks what form `CL` checks at `n2`, once `n1` has passed. -/
theorem unless_or_faults_of_formCI (htest : test = true ↔ cond)
    (hexec : exec i s = checked x (formCI n1 n2 n3) s (s.leave (unless_ test n3))) :
    (Valid n1 s.cfg.ni → Valid n2 s.cfg.ni → Valid n3 s.progLen.toNat → Unless cond i s n3) ∧
    FaultsCI i x s n1 n2 n3 := by
  by_cases h1 : Valid n1 s.cfg.ni
  · have hrest : exec i s = checked x (formCL n2 n3) s (s.leave (unless_ test n3)) :=
      hexec.trans (checked_int_of_valid h1)
    obtain ⟨hskip, hbadRight, hbadTarget⟩ := unless_or_faults_of_formCL htest hrest
    exact ⟨fun _ => hskip, fun hn => absurd h1 hn, fun _ => hbadRight, fun _ => hbadTarget⟩
  · have hbadLeft : TakesFault i s x .intAddr n1 := hexec.trans (checked_int_of_not_valid h1)
    exact ⟨fun h => absurd h h1, fun _ => hbadLeft, fun h => absurd h h1, fun h => absurd h h1⟩

end

/-! ### The instructions -/

/-- Settles O25: IFBS is form `CB` whose test is that the bit is 1. -/
theorem ifbsJumpsUnlessTheBitIsSet : Obligations.IfbsJumpsUnlessTheBitIsSet :=
  ⟨encodedAs_of_instrOf rfl (fun _ => rfl), fun _ _ _ => unless_or_faults_of_formCB beq_iff_eq rfl⟩

/-- Settles O26: IFBC is form `CB` whose test is that the bit is 0. -/
theorem ifbcJumpsUnlessTheBitIsClear : Obligations.IfbcJumpsUnlessTheBitIsClear :=
  ⟨encodedAs_of_instrOf rfl (fun _ => rfl), fun _ _ _ => unless_or_faults_of_formCB beq_iff_eq rfl⟩

/-- Settles O27: IFLTL is form `CL` whose test compares the cell with the literal as signed values. -/
theorem ifltlJumpsUnlessLessThanTheLiteral : Obligations.IfltlJumpsUnlessLessThanTheLiteral :=
  ⟨encodedAs_of_instrOf rfl (fun _ => rfl), fun _ _ _ _ => unless_or_faults_of_formCL decide_eq_true_iff rfl⟩

/-- Settles O28: IFEQ is form `CI` whose test compares the signed values of the two cells. -/
theorem ifeqJumpsUnlessEqual : Obligations.IfeqJumpsUnlessEqual :=
  ⟨encodedAs_of_instrOf rfl (fun _ => rfl), fun _ _ _ _ => unless_or_faults_of_formCI (relation_eq_test_iff _ _) rfl⟩

end Sys2Proof
end

section
/-! Control (spec 44): form `J` checks its target alone and form `Z` checks nothing, so what each instruction does is the
way out it leaves by. -/

namespace Sys2Proof

open Machine Safety

theorem leave_stop (s : State) : s.leave .stop = { s with done := true, fsm := .idle } := rfl

/-- Form `Z` has no operand to check, so its result stands in every state (44 R225). -/
theorem checked_formZ (x : Opcode) (s r : State) : checked x formZ s r = .next r := checked_nil

/-- What the three markers share: a form `Z` instruction that leaves by `next` only advances `pc` (44 R222 to R224). -/
theorem exec_of_formZ_leave_next {i : Instr} {x : Opcode} {s : State}
    (hexec : exec i s = checked x formZ s (s.leave .next)) : exec i s = .next { s with pc := s.pc + 1 } := by
  rw [hexec, checked_formZ, leave_next]

/-! ### The instructions -/

/-- Settles O30: JMP is form `J`, whose one check is the target's, and it leaves by the jump. -/
theorem jmpSetsThePc : Obligations.JmpSetsThePc := by
  refine ⟨encodedAs_of_instrOf rfl (fun _ => rfl), fun s n3 => ?_⟩
  have hexec : exec (.jmp n3) s = checked .jmp (formJ n3) s (s.leave (.jump n3)) := rfl
  constructor
  · intro h3
    rw [hexec, formJ, checked_target_of_valid h3, checked_nil, leave_jump]
  · intro h3
    rw [TakesFault, hexec, formJ, checked_target_of_not_valid h3]

/-- Settles O31: END is form `Z` and leaves by `stop`. -/
theorem endEndsTheScan : Obligations.EndEndsTheScan := by
  refine ⟨encodedAs_of_instrOf rfl (fun _ => rfl), fun s => ?_⟩
  have hexec : exec .endScan s = checked .endScan formZ s (s.leave .stop) := rfl
  rw [hexec, checked_formZ, leave_stop]

/-- Settles O32: each marker is form `Z` and leaves by `next`. -/
theorem markersOnlyAdvance : Obligations.MarkersOnlyAdvance := by
  refine ⟨?afwd, ?aknown, ?arslv, ?effect⟩
  case afwd => exact encodedAs_of_instrOf rfl (fun _ => rfl)
  case aknown => exact encodedAs_of_instrOf rfl (fun _ => rfl)
  case arslv => exact encodedAs_of_instrOf rfl (fun _ => rfl)
  case effect =>
    exact fun _ => ⟨exec_of_formZ_leave_next (x := .afwd) rfl, exec_of_formZ_leave_next (x := .aknown) rfl,
      exec_of_formZ_leave_next (x := .arslv) rfl⟩

end Sys2Proof
end

section
/-! The record as a container of its fields, both ways (spec 30 R80 to R82), and the codec of instructions built on it:
an instruction is what its opcode's form makes of the fields it is written with. -/

namespace Sys2Proof

open Machine Safety

/-! ### A record is its bytes, a field is its bytes -/

theorem wordByte_wordOfBytes (bo : ByteOrder) (b0 b1 b2 b3 : Byte) :
    wordByte bo (wordOfBytes bo b0 b1 b2 b3) 0 = b0 ∧ wordByte bo (wordOfBytes bo b0 b1 b2 b3) 1 = b1 ∧
    wordByte bo (wordOfBytes bo b0 b1 b2 b3) 2 = b2 ∧ wordByte bo (wordOfBytes bo b0 b1 b2 b3) 3 = b3 := by
  have bytes (a b c d : Byte) :
      (a ++ b ++ c ++ d).extractLsb' 0 8 = d ∧ (a ++ b ++ c ++ d).extractLsb' 8 8 = c ∧
      (a ++ b ++ c ++ d).extractLsb' 16 8 = b ∧ (a ++ b ++ c ++ d).extractLsb' 24 8 = a := by
    refine ⟨?_, ?_, ?_, ?_⟩ <;> ext i hi <;>
      simp only [BitVec.getElem_extractLsb', BitVec.getLsbD_append] <;>
      simp (disch := omega) only [if_neg, if_pos] <;>
      rw [← BitVec.getLsbD_eq_getElem hi] <;> congr 1 <;> omega
  cases bo with
  | le =>
    obtain ⟨h0, h1, h2, h3⟩ := bytes b3 b2 b1 b0
    exact ⟨h0, h1, h2, h3⟩
  | be =>
    obtain ⟨h0, h1, h2, h3⟩ := bytes b0 b1 b2 b3
    exact ⟨h3, h2, h1, h0⟩

/-- A byte below a range of bits joined to it is a longer range. -/
theorem extractLsb'_append_byte (w : Record) (k len : Nat) :
    w.extractLsb' (k + 8) len ++ w.extractLsb' k 8 = w.extractLsb' k (len + 8) :=
  BitVec.extractLsb'_append_extractLsb'_eq_extractLsb' rfl

theorem recordOfBytes_recordByte (w : Record) :
    recordOfBytes (recordByte w 0) (recordByte w 1) (recordByte w 2) (recordByte w 3) (recordByte w 4)
      (recordByte w 5) (recordByte w 6) (recordByte w 7) (recordByte w 8) (recordByte w 9) (recordByte w 10)
      (recordByte w 11) = w := by
  have join := extractLsb'_append_byte w
  unfold recordOfBytes recordByte
  rw [join 80 8, join 72, join 64, join 56, join 48, join 40, join 32, join 24, join 16, join 8, join 0]
  exact BitVec.extractLsb'_eq_self

theorem recordOf_fieldsOf (bo : ByteOrder) (w : Record) : recordOf bo (fieldsOf bo w) = w := by
  have half (b0 b1 : Byte) := halfByte_halfOfBytes bo b0 b1
  have word (b0 b1 b2 b3 : Byte) := wordByte_wordOfBytes bo b0 b1 b2 b3
  simp only [recordOf, fieldsOf, half, word, recordOfBytes_recordByte]

/-- Settles O2: rebuilding a record from its fields rebuilds every byte, and under `LE` joined neighbouring bytes are one
range of bits. -/
theorem recordIsMadeOfItsFields : Obligations.RecordIsMadeOfItsFields := by
  refine fun bo w => ⟨recordOf_fieldsOf bo w, ?littleEndian, rfl⟩
  case littleEndian =>
    have join := extractLsb'_append_byte w
    simp only [fieldsOf, halfOfBytes, wordOfBytes, recordByte]
    rw [join 0 8, join 16 8, join 32 8, join 48 8, join 80 8, join 72, join 64]

/-! ### The codec of instructions -/

theorem op_fields_of_opcode {c : Config} {i : Instr} {x : Opcode} (h : i.opcode = some x) :
    (i.fields c).op = c.opcodeValue x := by
  cases i <;> cases h <;> rfl

theorem instrOf_fields {c : Config} {i : Instr} {x : Opcode} (h : i.opcode = some x) :
    instrOf x (i.fields c) = i := by
  cases i <;> cases h <;> rfl

theorem eq_unrecognized_of_opcode {i : Instr} (h : i.opcode = none) : ∃ op, i = .unrecognized op := by
  cases i with
  | unrecognized op => exact ⟨op, rfl⟩
  | _ => cases h

theorem fieldsOf_encode (c : Config) (i : Instr) : fieldsOf c.byteOrder (encode c i) = i.fields c :=
  fieldsOf_recordOf _ _

/-- Settles O1: the encoded record holds the instruction's fields, its `op` names the instruction's opcode, and the
opcode's form of those fields is the instruction. -/
theorem decodeOfEncodeIsTheInstruction : Obligations.DecodeOfEncodeIsTheInstruction := by
  intro c i hc hwf
  cases hop : i.opcode with
  | some x =>
    have hval : (fieldsOf c.byteOrder (encode c i)).op = c.opcodeValue x := by
      rw [fieldsOf_encode, op_fields_of_opcode hop]
    rw [decode_of_op_eq hc hval, fieldsOf_encode, instrOf_fields hop]
  | none =>
    obtain ⟨op, rfl⟩ := eq_unrecognized_of_opcode hop
    have hnone : c.opcodeOf (fieldsOf c.byteOrder (encode c (.unrecognized op))).op = none := by
      rw [fieldsOf_encode]
      exact Option.isNone_iff_eq_none.mp hwf
    rw [decode_of_opcodeOf_eq_none hnone, fieldsOf_encode, Instr.fields]

theorem wellFormed_decode (c : Config) (w : Record) : (decode c w).wellFormed c = true := by
  cases h : c.opcodeOf (fieldsOf c.byteOrder w).op with
  | none =>
    rw [decode_of_opcodeOf_eq_none h, Instr.wellFormed, h, Option.isNone_none]
  | some x =>
    rw [decode_of_opcodeOf_eq_some h]
    cases x <;> rfl

/-- Settles O4: a decoded instruction is well-formed, so the round trip O1 holds of it. -/
theorem reencodingKeepsTheInstruction : Obligations.ReencodingKeepsTheInstruction :=
  fun c w hc =>
    ⟨wellFormed_decode c w, decodeOfEncodeIsTheInstruction c _ hc (wellFormed_decode c w)⟩

/-- Settles O5: each of the eight records is evaluated under the reference parameters. -/
theorem exampleRecordsDecode : Obligations.ExampleRecordsDecode := by
  unfold Obligations.ExampleRecordsDecode decodesTo
  decide

end Sys2Proof
end

section
/-! Text forms read back (spec 30 R96, R100, R107, R112, R117): the lines of a terminated text, the decimal and the
hexadecimal digits of a number. -/

namespace Sys2Proof

open Machine

/-! ### Lines -/

/-- A terminator, whichever it is, closes the line before it, if that line holds neither LF nor CR (30 R96). -/
theorem linesOf_append_terminated {l terminator rest : List Byte} (hl : lineFeed ∉ l ∧ carriageReturn ∉ l)
    (hend : linesOf (terminator ++ rest) = [] :: linesOf rest) :
    linesOf (l ++ terminator ++ rest) = l :: linesOf rest := by
  obtain ⟨hlf, hcr⟩ := hl
  rw [List.append_assoc]
  induction l with
  | nil => exact hend
  | cons b l ih =>
    rw [List.mem_cons, not_or] at hlf hcr
    have hb : ¬ (b = carriageReturn ∧ (l ++ (terminator ++ rest)).head? = some lineFeed) :=
      fun h => hcr.1 h.1.symm
    rw [List.cons_append, linesOf, if_neg (Ne.symm hlf.1), if_neg hb, ih hlf.2 hcr.2]

theorem linesOf_flatMap_terminated {ls : List (List Byte)} {terminator : List Byte}
    (hls : ∀ l ∈ ls, lineFeed ∉ l ∧ carriageReturn ∉ l)
    (hend : ∀ rest, linesOf (terminator ++ rest) = [] :: linesOf rest) :
    linesOf (ls.flatMap (fun l => l ++ terminator)) = ls := by
  induction ls with
  | nil => rfl
  | cons l ls ih =>
    rw [List.forall_mem_cons] at hls
    rw [List.flatMap_cons, linesOf_append_terminated hls.1 (hend _), ih hls.2]

theorem linesOf_lineFeed (rest : List Byte) : linesOf ([lineFeed] ++ rest) = [] :: linesOf rest := by
  simp [linesOf]

theorem linesOf_carriageReturn_lineFeed (rest : List Byte) :
    linesOf ([carriageReturn, lineFeed] ++ rest) = [] :: linesOf rest := by
  simp [linesOf, carriageReturn, lineFeed]

/-- Settles O7: LF and CR LF are both terminators in the sense of `linesOf_append_terminated`. -/
theorem lineEndingsMakeNoDifference : Obligations.LineEndingsMakeNoDifference :=
  fun _ hls => ⟨linesOf_flatMap_terminated hls linesOf_lineFeed,
    linesOf_flatMap_terminated hls linesOf_carriageReturn_lineFeed⟩

/-! ### Printed characters -/

/-- Every byte is a 7-bit character above the space: what the encoder and the disassembler's numbers are spelled with. -/
def Printed (l : List Byte) : Prop := ∀ b ∈ l, 0x20 < b.toNat ∧ b.toNat < 0x80

theorem printed_append {l m : List Byte} (hl : Printed l) (hm : Printed m) : Printed (l ++ m) :=
  List.forall_mem_append.mpr ⟨hl, hm⟩

theorem printed_cons {b : Byte} {l : List Byte} (hb : 0x20 < b.toNat ∧ b.toNat < 0x80) (hl : Printed l) :
    Printed (b :: l) :=
  List.forall_mem_cons.mpr ⟨hb, hl⟩

theorem sevenBit_of_printed {l : List Byte} (h : Printed l) : sevenBit l = true :=
  List.all_eq_true.mpr fun b hb => decide_eq_true (h b hb).2

/-- LF and CR are below the printed characters. -/
theorem no_terminator_of_printed {l : List Byte} (h : Printed l) : lineFeed ∉ l ∧ carriageReturn ∉ l :=
  ⟨fun hm => absurd (h _ hm).1 (by decide), fun hm => absurd (h _ hm).1 (by decide)⟩

/-! ### Decimal numbers -/

/-- The character of a decimal digit. -/
abbrev IsDigit (b : Byte) : Prop := 0x30 ≤ b.toNat ∧ b.toNat ≤ 0x39

theorem toNat_digitChar {d : Nat} (hd : d < 10) : (BitVec.ofNat 8 (0x30 + d)).toNat = 0x30 + d := by
  rw [BitVec.toNat_ofNat]
  omega

theorem isDigit_digitChar {d : Nat} (hd : d < 10) : IsDigit (BitVec.ofNat 8 (0x30 + d)) := by
  rw [IsDigit, toNat_digitChar hd]
  omega

theorem decimalDigit_digitChar {d : Nat} (hd : d < 10) : decimalDigit (BitVec.ofNat 8 (0x30 + d)) = some d := by
  rw [decimalDigit, if_pos (isDigit_digitChar hd), toNat_digitChar hd, Nat.add_sub_cancel_left]

theorem isDigit_of_mem_decimalDigits {fuel n : Nat} {b : Byte} (hb : b ∈ decimalDigits fuel n) : IsDigit b := by
  induction fuel generalizing n with
  | zero =>
    rw [decimalDigits, List.mem_singleton] at hb
    exact hb ▸ isDigit_digitChar (Nat.mod_lt _ (by decide))
  | succ fuel ih =>
    rw [decimalDigits] at hb
    split at hb
    next hn => exact List.mem_singleton.mp hb ▸ isDigit_digitChar hn
    next hn =>
      rcases List.mem_append.mp hb with hb | hb
      · exact ih hb
      · exact List.mem_singleton.mp hb ▸ isDigit_digitChar (Nat.mod_lt _ (by decide))

theorem decimalDigits_ne_nil (fuel n : Nat) : decimalDigits fuel n ≠ [] := by
  cases fuel with
  | zero => simp [decimalDigits]
  | succ fuel => rw [decimalDigits]; split <;> simp

theorem decimalFrom_append (acc : Nat) (l m : List Byte) :
    decimalFrom acc (l ++ m) = (decimalFrom acc l).bind (fun n => decimalFrom n m) := by
  induction l generalizing acc with
  | nil => rfl
  | cons b l ih =>
    simp only [List.cons_append, decimalFrom]
    cases decimalDigit b with
    | none => rfl
    | some d => exact ih _

theorem decimalFrom_digitChar (acc : Nat) {d : Nat} (hd : d < 10) :
    decimalFrom acc [BitVec.ofNat 8 (0x30 + d)] = some (10 * acc + d) := by
  simp only [decimalFrom, decimalDigit_digitChar hd]

/-- The fuel `n` is enough: each digit taken off makes the number smaller. -/
theorem decimalFrom_decimalDigits {fuel n : Nat} (hn : n ≤ fuel) : decimalFrom 0 (decimalDigits fuel n) = some n := by
  induction fuel generalizing n with
  | zero =>
    obtain rfl : n = 0 := Nat.le_zero.mp hn
    exact decimalFrom_digitChar 0 (by decide)
  | succ fuel ih =>
    rw [decimalDigits]
    split
    next hlt => rw [decimalFrom_digitChar 0 hlt, Nat.mul_zero, Nat.zero_add]
    next hge =>
      rw [decimalFrom_append, ih (by omega), Option.bind_some, decimalFrom_digitChar _ (Nat.mod_lt _ (by decide)),
        Nat.div_add_mod]

theorem isDigit_of_mem_writeDecimal {n : Nat} {b : Byte} (hb : b ∈ writeDecimal n) : IsDigit b :=
  isDigit_of_mem_decimalDigits hb

theorem writeDecimal_ne_nil (n : Nat) : writeDecimal n ≠ [] := decimalDigits_ne_nil n n

theorem printed_writeDecimal (n : Nat) : Printed (writeDecimal n) := fun b hb => by
  have hd : IsDigit b := isDigit_of_mem_writeDecimal hb
  omega

theorem readDecimal_writeDecimal (n : Nat) : readDecimal (writeDecimal n) = some n := by
  rw [readDecimal, if_neg (writeDecimal_ne_nil n)]
  exact decimalFrom_decimalDigits le_rfl

/-- A digit is not the minus sign, so a number without a sign is read as one. -/
theorem readSigned_writeDecimal (n : Nat) : readSigned (writeDecimal n) = some (n : Int) := by
  obtain ⟨b, rest, hcons⟩ := List.exists_cons_of_ne_nil (writeDecimal_ne_nil n)
  have hb : IsDigit b := isDigit_of_mem_writeDecimal (hcons ▸ List.mem_cons_self)
  have hminus : b ≠ 0x2D := by
    rintro rfl
    exact absurd hb (by decide)
  rw [hcons, readSigned, if_neg hminus, ← hcons, readDecimal_writeDecimal]
  rfl

theorem readSigned_writeSigned (z : Int) : readSigned (writeSigned z) = some z := by
  rw [writeSigned]
  split
  next hneg =>
    rw [readSigned, if_pos rfl, readDecimal_writeDecimal]
    change some (-(z.natAbs : Int)) = some z
    congr 1
    omega
  next hpos =>
    rw [readSigned_writeDecimal]
    congr 1
    omega

/-! ### Hexadecimal digits -/

theorem hexDigit_writeHexDigit (d : BitVec 4) : hexDigit (writeHexDigit d) = some d := by
  revert d
  decide

theorem bounds_writeHexDigit (d : BitVec 4) :
    0x24 < (writeHexDigit d).toNat ∧ (writeHexDigit d).toNat < 0x80 := by
  revert d
  decide

theorem readHexBytes_writeHexByte_append (b : Byte) (l : List Byte) :
    readHexBytes (writeHexByte b ++ l) = (readHexBytes l).map (b :: ·) := by
  have hjoin : b.extractLsb' 4 4 ++ b.extractLsb' 0 4 = b :=
    (BitVec.extractLsb'_append_extractLsb'_eq_extractLsb' rfl).trans BitVec.extractLsb'_eq_self
  simp only [writeHexByte, List.cons_append, List.nil_append, readHexBytes, hexDigit_writeHexDigit]
  cases readHexBytes l with
  | none => rfl
  | some bytes => exact congrArg (fun x => some (x :: bytes)) hjoin

theorem readHexBytes_flatMap_writeHexByte (bytes : List Byte) :
    readHexBytes (bytes.flatMap writeHexByte) = some bytes := by
  induction bytes with
  | nil => rfl
  | cons b bytes ih => rw [List.flatMap_cons, readHexBytes_writeHexByte_append, ih, Option.map_some]

end Sys2Proof
end

section
/-! The container read back (spec 30 R95 to R117): each kind of line the encoder writes is read as what it was written
from, and a map's lines, read in order into an empty map, give the map. -/

namespace Sys2Proof

open Machine Safety

/-! ### Instruction lines -/

theorem recordLine_eq (w : Record) : recordLine w = ((List.range 12).map (recordByte w)).flatMap writeHexByte := by
  rw [List.flatMap_map, recordLine]

theorem length_recordLine (w : Record) : (recordLine w).length = 24 := rfl

theorem bounds_of_mem_recordLine {w : Record} {b : Byte} (hb : b ∈ recordLine w) :
    0x24 < b.toNat ∧ b.toNat < 0x80 := by
  obtain ⟨k, _, hk⟩ := List.mem_flatMap.mp hb
  rw [writeHexByte, List.mem_pair] at hk
  rcases hk with rfl | rfl <;> exact bounds_writeHexDigit _

theorem printed_recordLine (w : Record) : Printed (recordLine w) := fun b hb => by
  have hbounds := bounds_of_mem_recordLine hb
  omega

theorem takeRecord_recordBytes (w : Record) : takeRecord ((List.range 12).map (recordByte w)) = .ok (w, []) :=
  congrArg (fun r => Except.ok (r, [])) (recordOfBytes_recordByte w)

theorem readRecord_recordLine (w : Record) : readRecord (recordLine w) = .ok w := by
  have hhex : readHexBytes (recordLine w) = some ((List.range 12).map (recordByte w)) := by
    rw [recordLine_eq, readHexBytes_flatMap_writeHexByte]
  simp only [readRecord, sevenBit_of_printed (printed_recordLine w), length_recordLine, hhex, takeRecord_recordBytes,
    reduceCtorEq, if_false, ne_eq, not_true_eq_false]

theorem isPrefixOf_mark_cons {mark rest : List Byte} {b : Byte} (hmark : mark.head? = some 0x24)
    (hb : 0x24 < b.toNat) : mark.isPrefixOf (b :: rest) = false := by
  obtain ⟨tail, rfl⟩ := List.head?_eq_some_iff.mp hmark
  have hne : (0x24 : Byte) ≠ b := fun h => absurd hb (h ▸ by decide)
  rw [List.isPrefixOf_cons_cons, beq_eq_false_iff_ne.mpr hne, Bool.false_and]

/-- A sentinel begins with `$`, so a line that begins with a later character is none (30 R101). -/
theorem not_mark_of_cons {b : Byte} (hb : 0x24 < b.toNat) (rest : List Byte) :
    bitsMark.isPrefixOf (b :: rest) = false ∧ intsMark.isPrefixOf (b :: rest) = false ∧
    cycleMark.isPrefixOf (b :: rest) = false :=
  ⟨isPrefixOf_mark_cons rfl hb, isPrefixOf_mark_cons rfl hb, isPrefixOf_mark_cons rfl hb⟩

theorem isSentinel_recordLine (w : Record) : isSentinel (recordLine w) = false := by
  obtain ⟨b, rest, hcons⟩ := List.exists_cons_of_length_eq_add_one (length_recordLine w)
  have hb : 0x24 < b.toNat := (bounds_of_mem_recordLine (w := w) (hcons ▸ List.mem_cons_self)).1
  obtain ⟨hbits, hints, hcycle⟩ := not_mark_of_cons hb rest
  rw [hcons, isSentinel, hbits, hints, hcycle]
  rfl

/-- The instruction section written by the encoder, within the capacity, is read as its records (30 R99 to R103). -/
theorem readRecords_map_recordLine {maxOps n : Nat} {records : List Record} {sentinel : List Byte}
    {rest : List (List Byte)} (hs : isSentinel sentinel = true) (hn : n + records.length ≤ maxOps) :
    readRecords maxOps n (records.map recordLine ++ sentinel :: rest) = .ok (records, sentinel :: rest) := by
  induction records generalizing n with
  | nil => rw [List.map_nil, List.nil_append, readRecords, if_pos hs]
  | cons w records ih =>
    rw [List.length_cons] at hn
    have hcap : ¬ maxOps ≤ n := by omega
    have hrest := ih (n := n + 1) (by omega)
    simp only [List.map_cons, List.cons_append, readRecords, isSentinel_recordLine, Bool.false_eq_true, if_false, hcap,
      readRecord_recordLine, hrest]

/-! ### The cycle-time line -/

/-- The line of a cycle time (30 R112). -/
def cycleLine (t : Nat) : List Byte := cycleMark ++ writeDecimal t

theorem printed_cycleLine (t : Nat) : Printed (cycleLine t) :=
  printed_append (by unfold Printed; decide) (printed_writeDecimal t)

theorem isPrefixOf_cycleLine (t : Nat) : cycleMark.isPrefixOf (cycleLine t) = true :=
  List.isPrefixOf_iff_prefix.mpr (List.prefix_append _ _)

theorem isSentinel_cycleLine (t : Nat) : isSentinel (cycleLine t) = true := by
  rw [isSentinel, isPrefixOf_cycleLine, Bool.or_true]

theorem readCycleTime_writeDecimal {t : Nat} (ht : 1 ≤ t ∧ t ≤ 2147483647) :
    readCycleTime (writeDecimal t) = some t := by
  have hspace : (writeDecimal t).dropWhile (· == space) = writeDecimal t := by
    refine List.dropWhile_eq_self_iff.mpr fun hlen h => ?_
    have hd : IsDigit _ := isDigit_of_mem_writeDecimal (List.getElem_mem hlen)
    rw [beq_iff_eq.mp h] at hd
    exact absurd hd (by decide)
  simp only [readCycleTime, hspace, readDecimal_writeDecimal, ht, and_self, if_true]

theorem line_cycleLine (tables : HostTables) {t : Nat} (ht : 1 ≤ t ∧ t ≤ 2147483647) :
    tables.line (cycleLine t) = .ok { tables with cycleTime := t } := by
  have hdrop : (cycleLine t).drop 7 = writeDecimal t := rfl
  simp only [HostTables.line, sevenBit_of_printed (printed_cycleLine t), isPrefixOf_cycleLine, hdrop,
    readCycleTime_writeDecimal ht, reduceCtorEq, if_false, if_true]

/-! ### Mapping lines -/

/-- A mapping line (30 R107). -/
def pinLine (letter : Byte) (n a : Nat) : List Byte := letter :: (writeDecimal n ++ 0x2C :: writeDecimal a)

theorem printed_pinLine {letter : Byte} (hl : 0x24 < letter.toNat ∧ letter.toNat < 0x80) (n a : Nat) :
    Printed (pinLine letter n a) :=
  printed_cons ⟨by omega, hl.2⟩
    (printed_append (printed_writeDecimal n) (printed_cons (by decide) (printed_writeDecimal a)))

/-- The comma ends the digits of the pin index. -/
theorem readPinAddress_digits {n a : Nat} (ha : a ≤ 32767) :
    readPinAddress (writeDecimal n ++ 0x2C :: writeDecimal a) = some (n, a) := by
  have hcomma : ∀ b ∈ writeDecimal n, (b != 0x2C) = true := fun b hb => by
    have hd : IsDigit b := isDigit_of_mem_writeDecimal hb
    refine bne_iff_ne.mpr fun h => ?_
    rw [h] at hd
    exact absurd hd (by decide)
  have hdrop : (writeDecimal n ++ 0x2C :: writeDecimal a).dropWhile (· != 0x2C) = 0x2C :: writeDecimal a := by
    rw [List.dropWhile_append_of_pos hcomma, List.dropWhile_cons_of_neg (by decide)]
  have htake : (writeDecimal n ++ 0x2C :: writeDecimal a).takeWhile (· != 0x2C) = writeDecimal n := by
    rw [List.takeWhile_append_of_pos hcomma, List.takeWhile_cons_of_neg (by decide), List.append_nil]
  simp only [readPinAddress, hdrop, htake, readDecimal_writeDecimal, ha, if_true]

/-- A printed mapping line whose letter is no `$` sets the entry it names and nothing else (30 R106 to R108). -/
theorem line_pinLine (tables : HostTables) {letter : Byte} (hl : 0x24 < letter.toNat ∧ letter.toNat < 0x80)
    (n a : Nat) : tables.line (pinLine letter n a) = .ok (tables.mapLine (pinLine letter n a)) := by
  obtain ⟨hbits, hints, hcycle⟩ := not_mark_of_cons hl.1 (writeDecimal n ++ 0x2C :: writeDecimal a)
  have hseven : sevenBit (letter :: (writeDecimal n ++ 0x2C :: writeDecimal a)) = true :=
    sevenBit_of_printed (printed_pinLine hl n a)
  simp only [HostTables.line, hseven, pinLine, hbits, hints, hcycle, reduceCtorEq, Bool.false_eq_true, Bool.or_self,
    if_false]

theorem line_pinLine_x (tables : HostTables) {n a : Nat} (ha : a ≤ 32767) :
    tables.line (pinLine 0x58 n a) = .ok { tables with x := tables.x.set n (some a) } := by
  rw [line_pinLine tables (by decide)]
  simp only [pinLine, HostTables.mapLine, readPinAddress_digits ha, if_true]

theorem line_pinLine_y (tables : HostTables) {n a : Nat} (ha : a ≤ 32767) :
    tables.line (pinLine 0x59 n a) = .ok { tables with y := tables.y.set n (some a) } := by
  rw [line_pinLine tables (by decide)]
  have hletter : (0x59 : Byte) ≠ 0x58 := by decide
  simp only [pinLine, HostTables.mapLine, readPinAddress_digits ha, hletter, if_false, if_true]

theorem line_pinLine_a (tables : HostTables) {n a : Nat} (ha : a ≤ 32767) :
    tables.line (pinLine 0x41 n a) = .ok { tables with a := tables.a.set n (some a) } := by
  rw [line_pinLine tables (by decide)]
  have hx : (0x41 : Byte) ≠ 0x58 := by decide
  have hy : (0x41 : Byte) ≠ 0x59 := by decide
  simp only [pinLine, HostTables.mapLine, readPinAddress_digits ha, hx, hy, if_false, if_true]

/-! ### The mapping lines of a map -/

/-- Set the entries a map sets, from pin index `n` on: what reading a map's lines does (30 R110). -/
def setEntries : Nat → List (Option Nat) → List (Option Nat) → List (Option Nat)
  | _, [], m => m
  | n, none :: rest, m => setEntries (n + 1) rest m
  | n, some a :: rest, m => setEntries (n + 1) rest (m.set n (some a))

/-- Setting a map's entries in the empty part of a map of its size writes the map there. -/
theorem setEntries_append_replicate (entries read : List (Option Nat)) :
    setEntries read.length entries (read ++ List.replicate entries.length none) = read ++ entries := by
  induction entries generalizing read with
  | nil => rfl
  | cons e rest ih =>
    have hnext := ih (read ++ [e])
    rw [List.length_append, List.length_singleton, List.append_assoc, List.append_assoc, List.singleton_append,
      List.singleton_append] at hnext
    cases e with
    | none => exact hnext
    | some a =>
      rw [List.length_cons, List.replicate_succ, setEntries, List.set_append_right _ _ le_rfl, Nat.sub_self]
      exact hnext

theorem setEntries_replicate {entries : List (Option Nat)} {size : Nat} (hsize : entries.length = size) :
    setEntries 0 entries (List.replicate size none) = entries := by
  subst hsize
  exact setEntries_append_replicate entries []

/-- `put m` stands for the tables whose map of the given letter is `m`. -/
theorem lines_mapLines_append {letter : Byte} {put : List (Option Nat) → HostTables}
    (hput : ∀ m {n a : Nat}, a ≤ 32767 → (put m).line (pinLine letter n a) = .ok (put (m.set n (some a))))
    {entries : List (Option Nat)} (hentries : ∀ e ∈ entries, e.getD 0 ≤ 32767) (n : Nat) (m : List (Option Nat))
    (rest : List (List Byte)) :
    (put m).lines (mapLines letter n entries ++ rest) = (put (setEntries n entries m)).lines rest := by
  induction entries generalizing n m with
  | nil => rfl
  | cons e entries ih =>
    rw [List.forall_mem_cons] at hentries
    cases e with
    | none => exact ih hentries.2 (n + 1) m
    | some a =>
      have hline : (put m).line (letter :: (writeDecimal n ++ 0x2C :: writeDecimal a)) =
          .ok (put (m.set n (some a))) := hput m hentries.1
      simp only [mapLines, List.cons_append, HostTables.lines, hline]
      exact ih hentries.2 (n + 1) _

/-- The trailing section the encoder writes for some tables (30 R105, R107, R112). -/
def trailingLines (t : HostTables) : List (List Byte) :=
  cycleLine t.cycleTime :: (mapLines 0x58 0 t.x ++ mapLines 0x59 0 t.y ++ mapLines 0x41 0 t.a)

theorem lines_trailingLines {c : Config} {t : HostTables} (hx : MapOk t.x c.nx) (hy : MapOk t.y c.ny)
    (ha : MapOk t.a c.na) (hcycle : 1 ≤ t.cycleTime ∧ t.cycleTime ≤ 2147483647) :
    (HostTables.empty c).lines (trailingLines t) = .ok t := by
  obtain ⟨hxLength, hxRange⟩ := hx
  obtain ⟨hyLength, hyRange⟩ := hy
  obtain ⟨haLength, haRange⟩ := ha
  rw [trailingLines, HostTables.lines, line_cycleLine _ hcycle]
  calc HostTables.lines ⟨List.replicate c.nx none, List.replicate c.ny none, List.replicate c.na none, t.cycleTime⟩
        (mapLines 0x58 0 t.x ++ mapLines 0x59 0 t.y ++ mapLines 0x41 0 t.a)
      = HostTables.lines ⟨t.x, List.replicate c.ny none, List.replicate c.na none, t.cycleTime⟩
          (mapLines 0x59 0 t.y ++ mapLines 0x41 0 t.a) := by
        rw [List.append_assoc, lines_mapLines_append (put := (⟨·, _, _, _⟩)) (fun _ _ _ => line_pinLine_x _) hxRange,
          setEntries_replicate hxLength]
    _ = HostTables.lines ⟨t.x, t.y, List.replicate c.na none, t.cycleTime⟩ (mapLines 0x41 0 t.a ++ []) := by
        rw [lines_mapLines_append (put := (⟨_, ·, _, _⟩)) (fun _ _ _ => line_pinLine_y _) hyRange,
          setEntries_replicate hyLength, List.append_nil]
    _ = .ok t := by
        rw [lines_mapLines_append (put := (⟨_, _, ·, _⟩)) (fun _ _ _ => line_pinLine_a _) haRange,
          setEntries_replicate haLength, HostTables.lines]

/-! ### The whole container -/

theorem printed_of_mem_mapLines {letter : Byte} (hl : 0x24 < letter.toNat ∧ letter.toNat < 0x80)
    {entries : List (Option Nat)} {n : Nat} {l : List Byte} (h : l ∈ mapLines letter n entries) : Printed l := by
  induction entries generalizing n with
  | nil => cases h
  | cons e entries ih =>
    cases e with
    | none => exact ih h
    | some a =>
      rcases List.mem_cons.mp h with rfl | h
      · exact printed_pinLine hl n a
      · exact ih h

theorem containerLines_eq (p : Image) :
    containerLines p = signature :: (p.records.map recordLine ++ trailingLines p.tables) := rfl

theorem printed_of_mem_containerLines {p : Image} {l : List Byte} (h : l ∈ containerLines p) : Printed l := by
  simp only [containerLines_eq, trailingLines, List.mem_cons, List.mem_append, List.mem_map] at h
  rcases h with rfl | ⟨w, _, rfl⟩ | rfl | (hx | hy) | ha
  · unfold Printed
    decide
  · exact printed_recordLine w
  · exact printed_cycleLine _
  · exact printed_of_mem_mapLines (by decide) hx
  · exact printed_of_mem_mapLines (by decide) hy
  · exact printed_of_mem_mapLines (by decide) ha

theorem linesOf_writeContainer (p : Image) : linesOf (writeContainer p) = containerLines p :=
  linesOf_flatMap_terminated (fun _ hl => no_terminator_of_printed (printed_of_mem_containerLines hl))
    linesOf_lineFeed

/-- Settles O6: the written lines come back as lines, and then the header, the records, the tables and the check of the
program are read in the order they were written. -/
theorem containerRoundTrips : Obligations.ContainerRoundTrips := by
  intro c p _ hcapacity hcheck hx hy ha hlo hhi
  have hrecords : readRecords c.maxOps 0 (p.records.map recordLine ++ trailingLines p.tables) =
      .ok (p.records, trailingLines p.tables) :=
    readRecords_map_recordLine (isSentinel_cycleLine _) (by omega)
  have htables := lines_trailingLines hx hy ha ⟨hlo, hhi⟩
  simp only [readContainer, linesOf_writeContainer, containerLines_eq, ne_eq, not_true_eq_false, if_false, hrecords,
    htables, hcheck]

end Sys2Proof
end

section
/-! What the loader accepts (spec 30 R99 to R114): the inversion of a successful read, and what each of its three parts
guarantees. -/

namespace Sys2Proof

open Machine Safety

theorem length_of_readRecords {maxOps n : Nat} {lines trailing : List (List Byte)} {records : List Record}
    (h : readRecords maxOps n lines = .ok (records, trailing)) (hn : n ≤ maxOps) :
    n + records.length ≤ maxOps := by
  induction lines generalizing n records with
  | nil => cases h
  | cons l rest ih =>
    rw [readRecords] at h
    split at h
    · cases h
      exact hn
    split at h
    · cases h
    next hcap =>
      split at h
      · cases h
      split at h
      · cases h
      next hrest =>
        cases h
        have hlen := ih hrest (by omega)
        rw [List.length_cons]
        omega

/-! ### The tables -/

/-- The host's tables are within their ranges (10 R50, 30 R107, R112). -/
abbrev TablesOk (c : Config) (t : HostTables) : Prop :=
  MapOk t.x c.nx ∧ MapOk t.y c.ny ∧ MapOk t.a c.na ∧ 1 ≤ t.cycleTime ∧ t.cycleTime ≤ 2147483647

theorem mapOk_replicate (size : Nat) : MapOk (List.replicate size none) size :=
  ⟨List.length_replicate, fun e he => by rw [List.eq_of_mem_replicate he]; decide⟩

theorem mapOk_set {m : List (Option Nat)} {size a : Nat} (h : MapOk m size) (ha : a ≤ 32767) (n : Nat) :
    MapOk (m.set n (some a)) size := by
  obtain ⟨hlength, hrange⟩ := h
  refine ⟨by rw [List.length_set, hlength], fun e he => ?_⟩
  rcases List.mem_or_eq_of_mem_set he with he | rfl
  · exact hrange e he
  · exact ha

theorem tablesOk_empty {c : Config} (hc : c.Admissible) : TablesOk c (HostTables.empty c) := by
  obtain ⟨_, _, _, _, _, hcycle⟩ := hc
  exact ⟨mapOk_replicate _, mapOk_replicate _, mapOk_replicate _, hcycle⟩

theorem readPinAddress_le {l : List Byte} {n a : Nat} (h : readPinAddress l = some (n, a)) : a ≤ 32767 := by
  unfold readPinAddress at h
  split at h
  · cases h
  split at h
  · split at h
    next ha => cases h; exact ha
    · cases h
  · cases h

theorem tablesOk_mapLine {c : Config} {t : HostTables} (h : TablesOk c t) (l : List Byte) :
    TablesOk c (t.mapLine l) := by
  cases l with
  | nil => exact h
  | cons letter rest =>
    rw [HostTables.mapLine]
    split
    · exact h
    next hpin =>
      have ha := readPinAddress_le hpin
      obtain ⟨hx, hy, hmapA, hcycle⟩ := h
      split
      · exact ⟨mapOk_set hx ha _, hy, hmapA, hcycle⟩
      split
      · exact ⟨hx, mapOk_set hy ha _, hmapA, hcycle⟩
      split
      · exact ⟨hx, hy, mapOk_set hmapA ha _, hcycle⟩
      · exact ⟨hx, hy, hmapA, hcycle⟩

theorem readCycleTime_range {l : List Byte} {t : Nat} (h : readCycleTime l = some t) : 1 ≤ t ∧ t ≤ 2147483647 := by
  unfold readCycleTime at h
  split at h
  · split at h
    next ht => cases h; exact ht
    · cases h
  · cases h

theorem tablesOk_line {c : Config} {t t' : HostTables} {l : List Byte} (h : TablesOk c t)
    (hline : t.line l = .ok t') : TablesOk c t' := by
  unfold HostTables.line at hline
  split at hline
  · cases hline
    exact h
  split at hline
  · split at hline
    next htime =>
      cases hline
      obtain ⟨hx, hy, ha, _⟩ := h
      exact ⟨hx, hy, ha, readCycleTime_range htime⟩
    · cases hline
  split at hline
  · cases hline
    exact h
  · cases hline
    exact tablesOk_mapLine h l

theorem tablesOk_lines {c : Config} {t t' : HostTables} {ls : List (List Byte)} (h : TablesOk c t)
    (hlines : t.lines ls = .ok t') : TablesOk c t' := by
  induction ls generalizing t with
  | nil =>
    cases hlines
    exact h
  | cons l ls ih =>
    rw [HostTables.lines] at hlines
    split at hlines
    next hline => exact ih (tablesOk_line h hline) hlines
    · cases hlines

/-! ### The whole container -/

theorem checkProgram_ok {c : Config} {records : List Record} (h : checkProgram c records = .ok ()) :
    endCount c records = 1 ∧ ∀ w ∈ records, targetFits c records.length w = true := by
  unfold checkProgram at h
  split at h
  · cases h
  split at h
  · cases h
  split at h
  next hall => exact ⟨by omega, List.all_eq_true.mp hall⟩
  · cases h

/-- Inversion of a read without error: its three parts went without error. -/
theorem readContainer_ok {c : Config} {source : Source} {p : Image} (h : readContainer c source = .ok p) :
    ∃ lines trailing, readRecords c.maxOps 0 lines = .ok (p.records, trailing) ∧
      (HostTables.empty c).lines trailing = .ok p.tables ∧ checkProgram c p.records = .ok () := by
  unfold readContainer at h
  split at h
  · cases h
  split at h
  · cases h
  split at h
  · cases h
  split at h
  · cases h
  next hrecords =>
    split at h
    · cases h
    next htables =>
      split at h
      · cases h
      next hcheck =>
        cases h
        exact ⟨_, _, hrecords, htables, hcheck⟩

theorem readContainer_length {c : Config} {source : Source} {p : Image} (h : readContainer c source = .ok p) :
    p.records.length ≤ c.maxOps := by
  obtain ⟨lines, trailing, hrecords, _, _⟩ := readContainer_ok h
  have hlen := length_of_readRecords hrecords (Nat.zero_le _)
  omega

theorem readContainer_targetFits {c : Config} {source : Source} {p : Image} (h : readContainer c source = .ok p) :
    ∀ w ∈ p.records, targetFits c p.records.length w = true := by
  obtain ⟨_, _, _, _, hcheck⟩ := readContainer_ok h
  exact (checkProgram_ok hcheck).2

theorem readContainer_tablesOk {c : Config} {source : Source} {p : Image} (hc : c.Admissible)
    (h : readContainer c source = .ok p) : TablesOk c p.tables := by
  obtain ⟨_, _, _, htables, _⟩ := readContainer_ok h
  exact tablesOk_lines (tablesOk_empty hc) htables

/-- Settles O55: the records section is bounded by the capacity, each trailing line keeps the tables in their ranges,
and the program check is made last. -/
theorem acceptedProgramsAreWellFormed : Obligations.AcceptedProgramsAreWellFormed := by
  intro c source p hc h
  obtain ⟨_, _, _, _, hcheck⟩ := readContainer_ok h
  obtain ⟨hend, htargets⟩ := checkProgram_ok hcheck
  exact ⟨readContainer_length h, hend, htargets, readContainer_tablesOk hc h⟩

end Sys2Proof
end

section
/-! The ALU laws (spec 42 R170 to R177) and the instructions whose statements rest on them: wrapping, truncated division
with its one overflow, `DIV` and `MOD`; and the remaining conditionals and the unrecognized opcode (43, 44). -/

namespace Sys2Proof

open Machine Safety

/-! ### Wrapping -/

theorem toInt_mem_range (a : Word) : -2147483648 ≤ a.toInt ∧ a.toInt < 2147483648 := ⟨a.le_toInt, a.toInt_lt⟩

theorem wrap32_congruent (z : Int) : (4294967296 : Int) ∣ (wrap32 z).toInt - z := by
  rw [wrap32, BitVec.toInt_ofInt]
  exact Int.dvd_bmod_sub_self

theorem aluAdd_eq (a b : Word) : aluAdd a b = a + b := by
  rw [aluAdd, wrap32, BitVec.ofInt_add, BitVec.ofInt_toInt, BitVec.ofInt_toInt]

theorem aluSub_eq (a b : Word) : aluSub a b = a - b := by
  rw [aluSub, wrap32, Int.sub_eq_add_neg, BitVec.ofInt_add, BitVec.ofInt_neg, BitVec.ofInt_toInt, BitVec.ofInt_toInt,
    BitVec.sub_eq_add_neg]

theorem aluMul_eq (a b : Word) : aluMul a b = a * b := by
  rw [aluMul, wrap32, BitVec.ofInt_mul, BitVec.ofInt_toInt, BitVec.ofInt_toInt]

/-- Settles O23: `wrap32` is the balanced remainder modulo `2^32`, and narrowing is a homomorphism; one more and one
less are the sum and the difference with 1. -/
theorem aluResultsWrap : Obligations.AluResultsWrap := by
  refine ⟨fun z => ?range, fun a b => ⟨aluAdd_eq a b, aluSub_eq a b, aluMul_eq a b, aluAdd_eq a 1, aluSub_eq a 1⟩⟩
  case range =>
    obtain ⟨hlo, hhi⟩ := toInt_mem_range (wrap32 z)
    exact ⟨hlo, hhi, wrap32_congruent z⟩

/-! ### Division -/

section

variable {a b : Word}

theorem toInt_ne_zero (hb : b ≠ 0) : b.toInt ≠ 0 := fun h => hb (BitVec.toInt_inj.mp h)

theorem natAbs_tmod_lt (hb : b ≠ 0) : (Int.tmod a.toInt b.toInt).natAbs < b.toInt.natAbs := by
  rw [Int.natAbs_tmod]
  exact Nat.mod_lt _ (Int.natAbs_pos.mpr (toInt_ne_zero hb))

/-- The remainder is smaller than the divisor, so it never wraps. -/
theorem toInt_aluMod (hb : b ≠ 0) : (aluMod a b).toInt = Int.tmod a.toInt b.toInt := by
  have hlt := natAbs_tmod_lt (a := a) hb
  obtain ⟨hlo, hhi⟩ := toInt_mem_range b
  rw [aluMod, ← Int.tmod_def]
  exact toInt_wrap32_of_mem_range (by omega) (by omega)

/-- A divisor of magnitude at least 2 halves the quotient's magnitude, 1 keeps the dividend, and -1 negates it. -/
theorem tdiv_mem_range (hb : b ≠ 0) (h : ¬ (a.toInt = -2147483648 ∧ b.toInt = -1)) :
    -2147483648 ≤ Int.tdiv a.toInt b.toInt ∧ Int.tdiv a.toInt b.toInt ≤ 2147483647 := by
  obtain ⟨hlo, hhi⟩ := toInt_mem_range a
  have hzero := toInt_ne_zero hb
  by_cases hone : b.toInt = 1
  · rw [hone, Int.tdiv_one]
    omega
  by_cases hneg : b.toInt = -1
  · rw [hneg, Int.tdiv_neg, Int.tdiv_one]
    omega
  · have hquotient : (Int.tdiv a.toInt b.toInt).natAbs = a.toInt.natAbs / b.toInt.natAbs := Int.natAbs_tdiv _ _
    have hhalf : a.toInt.natAbs / b.toInt.natAbs ≤ a.toInt.natAbs / 2 :=
      Nat.div_le_div_left (by omega) (by decide)
    omega

theorem toInt_aluDiv (hb : b ≠ 0) (h : ¬ (a.toInt = -2147483648 ∧ b.toInt = -1)) :
    (aluDiv a b).toInt = Int.tdiv a.toInt b.toInt :=
  toInt_wrap32_of_mem_range (tdiv_mem_range hb h).1 (tdiv_mem_range hb h).2

theorem tmod_nonpos {x : Int} (y : Int) (hx : x ≤ 0) : Int.tmod x y ≤ 0 := by
  have hneg : 0 ≤ Int.tmod (-x) y := Int.tmod_nonneg y (by omega)
  rw [Int.neg_tmod] at hneg
  omega

end

/-- Settles O24: only `-2^31 / -1` leaves the range of a cell, and the remainder is that of the truncated quotient. -/
theorem divisionTruncatesTowardZero : Obligations.DivisionTruncatesTowardZero := by
  intro a b hb
  rw [toInt_aluMod hb]
  refine ⟨?overflow, toInt_aluDiv hb, rfl, natAbs_tmod_lt hb, ?positive, ?negative⟩
  case overflow =>
    intro hmin hneg
    rw [aluDiv, hmin, hneg]
    exact ⟨rfl, rfl⟩
  case positive =>
    exact fun h => Int.not_le.mp fun ha => Int.not_le.mpr h (tmod_nonpos _ ha)
  case negative =>
    exact fun h => Int.not_le.mp fun ha => Int.not_le.mpr h (Int.tmod_nonneg _ ha)

theorem setQuotient_zero (s : State) (a : Nat) (v : Word) : s.setQuotient a 0 v = s := rfl

theorem setQuotient_of_ne_zero {divisor : Word} (h : divisor ≠ 0) (s : State) (a : Nat) (v : Word) :
    s.setQuotient a divisor v = s.setInt a v := by
  rw [State.setQuotient, if_neg h, State.setInt]

/-- What DIV and MOD share: form `I3` whose store is skipped when the divisor is 0 (42 R187, R188). -/
theorem storesQuotient_or_faults_of_formI3 {i : Instr} {x : Opcode} {s : State} {n1 n2 n3 : Half} {divisor v : Word}
    (hexec : exec i s = checked x (formI3 n1 n2 n3) s ((s.setQuotient (cellOf n1) divisor v).leave .next)) :
    (Valid n1 s.cfg.ni → Valid n2 s.cfg.ni → Valid n3 s.cfg.ni → divisor ≠ 0 →
      ∃ t, exec i s = .next t ∧ StoresInt (cellOf n1) v s t) ∧
    (Valid n1 s.cfg.ni → Valid n2 s.cfg.ni → Valid n3 s.cfg.ni → divisor = 0 →
      exec i s = .next { s with pc := s.pc + 1 }) ∧
    FaultsI3 i x s n1 n2 n3 := by
  refine ⟨?stores, ?skips, faultsI3_of_formI3 hexec⟩
  case stores =>
    intro h1 h2 h3 hd
    rw [setQuotient_of_ne_zero hd] at hexec
    exact ⟨_, exec_of_formI3_of_valid hexec h1 h2 h3, storesInt_setInt_leave_next s _ v⟩
  case skips =>
    intro h1 h2 h3 hd
    rw [hd, setQuotient_zero] at hexec
    exact exec_of_formI3_of_valid hexec h1 h2 h3

/-! ### The instructions -/

/-- Settles O21: DIV stores `aluDiv` of the sources unless the divisor is 0 (42 R174). -/
theorem divWritesTheTruncatedQuotient : Obligations.DivWritesTheTruncatedQuotient :=
  ⟨encodedAs_of_instrOf rfl (fun _ => rfl), fun _ _ _ _ => storesQuotient_or_faults_of_formI3 rfl⟩

/-- Settles O22: MOD stores `aluMod` of the sources unless the divisor is 0, and `aluMod` is the remainder (42 R175). -/
theorem modWritesTheRemainder : Obligations.ModWritesTheRemainder := by
  refine ⟨encodedAs_of_instrOf rfl (fun _ => rfl), fun s n1 n2 n3 => ?_⟩
  obtain ⟨hstores, hskips, hfaults⟩ :=
    storesQuotient_or_faults_of_formI3 (i := .mod n1 n2 n3) (s := s) (v := aluMod _ _) rfl
  refine ⟨fun h1 h2 h3 hd => ?_, hskips, hfaults⟩
  obtain ⟨t, hnext, hstore⟩ := hstores h1 h2 h3 hd
  exact ⟨t, _, hnext, hstore, toInt_aluMod hd⟩

/-- Settles O29: each of the four is form `CI` whose test is its signed relation of the two cells. -/
theorem relationalSkipsCompareTwoCells : Obligations.RelationalSkipsCompareTwoCells := by
  refine ⟨encodedAs_of_instrOf rfl (fun _ => rfl), encodedAs_of_instrOf rfl (fun _ => rfl),
    encodedAs_of_instrOf rfl (fun _ => rfl), encodedAs_of_instrOf rfl (fun _ => rfl), fun s n1 n2 n3 => ?_⟩
  obtain ⟨hge, hgeFaults⟩ := unless_or_faults_of_formCI (i := .ifge n1 n2 n3) (s := s) decide_eq_true_iff rfl
  obtain ⟨hle, hleFaults⟩ := unless_or_faults_of_formCI (i := .ifle n1 n2 n3) (s := s) decide_eq_true_iff rfl
  obtain ⟨hne, hneFaults⟩ := unless_or_faults_of_formCI (i := .ifne n1 n2 n3) (s := s) decide_eq_true_iff rfl
  obtain ⟨hgt, hgtFaults⟩ := unless_or_faults_of_formCI (i := .ifgt n1 n2 n3) (s := s) decide_eq_true_iff rfl
  exact ⟨fun h1 h2 h3 => ⟨hge h1 h2 h3, hle h1 h2 h3, hne h1 h2 h3, hgt h1 h2 h3⟩,
    hgeFaults, hleFaults, hneFaults, hgtFaults⟩

theorem toNat_add_one_of_lt {a : Half} (h : a.toNat < 65535) : (a + 1).toNat = a.toNat + 1 :=
  BitVec.toNat_add_of_lt (by change _ + 1 < 65536; omega)

/-- The count of unrecognized opcodes saturates at FFFFH (10 R32). -/
theorem toNat_unkCount_reportUnknown (s : State) (op : Half) :
    (s.reportUnknown op).unkCount.toNat = min (s.unkCount.toNat + 1) 65535 := by
  have hlt := s.unkCount.isLt
  rw [reportUnknown_unkCount]
  split
  next hcount => rw [toNat_add_one_of_lt hcount]; omega
  next => omega

/-- Settles O33: nothing is checked, and the report is made before `pc` is advanced. -/
theorem unrecognizedIsReportedAndSkipped : Obligations.UnrecognizedIsReportedAndSkipped :=
  fun s op => ⟨(s.reportUnknown op).leave .next, rfl, rfl, toNat_unkCount_reportUnknown s op⟩

end Sys2Proof
end

section
/-! What an instruction can do, said once (spec 40 R131 to R139): `Effect i s t` lists the outcomes of `exec`, each with
the checks that hold in it, and the statements about all instructions are case splits on it. -/

namespace Sys2Proof

open Machine Safety

/-! ### The outcomes -/

/-- The fault an instruction takes: a bad address of either bank, or its own target outside the program (40 R137,
R138). -/
abbrev Violates (i : Instr) (s : State) (cause : FaultCause) (arg : Half) : Prop :=
  cause = .bitAddr ∨ cause = .intAddr ∨
    (cause = .jumpTarget ∧ targetOf i = some arg ∧ ¬ Valid arg s.progLen.toNat)

/-- The states an instruction can lead to. -/
inductive Effect (i : Instr) (s : State) : State → Prop
  | fault {cause : FaultCause} {arg : Half} (h : Violates i s cause arg) :
      Effect i s (faultState cause (opField s.cfg i) arg s)
  | storeBit {a : Nat} {v : Bit} (hdest : destination i = some (.bit, a)) (ha : a < s.cfg.nb) :
      Effect i s ((s.setBit a v).leave .next)
  | storeInt {a : Nat} {v : Word} (hdest : destination i = some (.integer, a)) (ha : a < s.cfg.ni) :
      Effect i s ((s.setInt a v).leave .next)
  | goOn : Effect i s (s.leave .next)
  | jump {target : Half} (htarget : targetOf i = some target) (hvalid : Valid target s.progLen.toNat) :
      Effect i s (s.leave (.jump target))
  | stop (hi : i = .endScan) : Effect i s (s.leave .stop)
  | report {op : Half} (hi : i = .unrecognized op) : Effect i s ((s.reportUnknown op).leave .next)

/-! ### The checks -/

section

variable {i : Instr} {x : Opcode} {s t : State} {ops : List Operand}

theorem exists_violation_of_firstViolation {f : FaultCause × Half} (h : firstViolation s ops = some f) :
    ∃ o ∈ ops, o.violation s = some f := by
  induction ops with
  | nil => cases h
  | cons o rest ih =>
    rw [firstViolation] at h
    split at h
    next hviolation => exact ⟨o, List.mem_cons_self, hviolation.trans h⟩
    next => exact (ih h).imp fun _ ho => ⟨List.mem_cons_of_mem _ ho.1, ho.2⟩

theorem cellOf_lt_of_bit_passes {a : Half} (h : (Operand.bit a).violation s = none) : cellOf a < s.cfg.nb := by
  by_contra hlt
  have hvalid : ¬ Valid a s.cfg.nb := fun hv => hlt (cellOf_lt ((inRange_iff _ _).mpr hv))
  rw [violation_bit_of_not_valid hvalid] at h
  cases h

theorem cellOf_lt_of_int_passes {a : Half} (h : (Operand.int a).violation s = none) : cellOf a < s.cfg.ni := by
  by_contra hlt
  have hvalid : ¬ Valid a s.cfg.ni := fun hv => hlt (cellOf_lt ((inRange_iff _ _).mpr hv))
  rw [violation_int_of_not_valid hvalid] at h
  cases h

theorem valid_of_target_passes {a : Half} (h : (Operand.target a).violation s = none) : Valid a s.progLen.toNat := by
  by_contra hvalid
  rw [violation_target_of_not_valid hvalid] at h
  cases h

/-- A checked field that is a target is the instruction's own, so the fault taken is one of `Violates`. -/
theorem violates_of_violation {o : Operand} {cause : FaultCause} {arg : Half}
    (htargets : ∀ a, o = .target a → targetOf i = some a) (h : o.violation s = some (cause, arg)) :
    Violates i s cause arg := by
  cases o with
  | bit a =>
    rw [Operand.violation] at h
    split at h <;> cases h
    exact .inl rfl
  | int a =>
    rw [Operand.violation] at h
    split at h <;> cases h
    exact .inr (.inl rfl)
  | target a =>
    rw [Operand.violation] at h
    split at h <;> cases h
    next hrange => exact .inr (.inr ⟨rfl, htargets _ rfl, fun hv => hrange ((inRange_iff _ _).mpr hv)⟩)

/-- A checked instruction takes a fault, or has the effect of its result with all its checks passed. -/
theorem effect_of_checked {r : State} (hop : opField s.cfg i = s.cfg.opcodeValue x)
    (htargets : ∀ a, Operand.target a ∈ ops → targetOf i = some a)
    (hresult : (∀ o ∈ ops, o.violation s = none) → Effect i s r) (h : checked x ops s r = .next t) :
    Effect i s t := by
  rcases checked_cases h with ⟨hnone, rfl⟩ | ⟨cause, arg, hsome, rfl⟩
  · exact hresult ((firstViolation_none s ops).mp hnone)
  · obtain ⟨o, ho, hviolation⟩ := exists_violation_of_firstViolation hsome
    rw [← hop]
    exact .fault (violates_of_violation (fun a ha => htargets a (ha ▸ ho)) hviolation)

/-! ### The effect of each kind of result -/

variable {n1 n3 : Half}

theorem effect_of_setBit {v : Bit} (hop : opField s.cfg i = s.cfg.opcodeValue x)
    (htargets : ∀ a, Operand.target a ∉ ops) (hmem : Operand.bit n1 ∈ ops)
    (hdest : destination i = some (.bit, cellOf n1))
    (h : checked x ops s ((s.setBit (cellOf n1) v).leave .next) = .next t) : Effect i s t :=
  effect_of_checked hop (fun a ha => absurd ha (htargets a))
    (fun hpass => .storeBit hdest (cellOf_lt_of_bit_passes (hpass _ hmem))) h

theorem effect_of_setInt {v : Word} (hop : opField s.cfg i = s.cfg.opcodeValue x)
    (htargets : ∀ a, Operand.target a ∉ ops) (hmem : Operand.int n1 ∈ ops)
    (hdest : destination i = some (.integer, cellOf n1))
    (h : checked x ops s ((s.setInt (cellOf n1) v).leave .next) = .next t) : Effect i s t :=
  effect_of_checked hop (fun a ha => absurd ha (htargets a))
    (fun hpass => .storeInt hdest (cellOf_lt_of_int_passes (hpass _ hmem))) h

theorem effect_of_setQuotient {divisor v : Word} (hop : opField s.cfg i = s.cfg.opcodeValue x)
    (htargets : ∀ a, Operand.target a ∉ ops) (hmem : Operand.int n1 ∈ ops)
    (hdest : destination i = some (.integer, cellOf n1))
    (h : checked x ops s ((s.setQuotient (cellOf n1) divisor v).leave .next) = .next t) : Effect i s t := by
  by_cases hd : divisor = 0
  · rw [hd, setQuotient_zero] at h
    exact effect_of_checked hop (fun a ha => absurd ha (htargets a)) (fun _ => .goOn) h
  · rw [setQuotient_of_ne_zero hd] at h
    exact effect_of_setInt hop htargets hmem hdest h

theorem effect_of_unless {test : Bool} (hop : opField s.cfg i = s.cfg.opcodeValue x)
    (htargets : ∀ a, Operand.target a ∈ ops ↔ a = n3) (htarget : targetOf i = some n3)
    (h : checked x ops s (s.leave (unless_ test n3)) = .next t) : Effect i s t := by
  refine effect_of_checked hop (fun a ha => (htargets a).mp ha ▸ htarget) (fun hpass => ?_) h
  cases test with
  | true => exact .goOn
  | false => exact .jump htarget (valid_of_target_passes (hpass _ ((htargets n3).mpr rfl)))

end

theorem effect_of_exec {i : Instr} {s t : State} (h : exec i s = .next t) : Effect i s t := by
  cases i with
  | setb n1 | clrb n1 => exact effect_of_setBit rfl (by simp [formB1]) (by simp [formB1]) rfl h
  | movb n1 n2 => exact effect_of_setBit rfl (by simp [formB2]) (by simp [formB2]) rfl h
  | seti n1 lit => exact effect_of_setInt rfl (by simp [formIL]) (by simp [formIL]) rfl h
  | movi n1 n2 => exact effect_of_setInt rfl (by simp [formI2]) (by simp [formI2]) rfl h
  | inc n1 | dec n1 => exact effect_of_setInt rfl (by simp [formI1]) (by simp [formI1]) rfl h
  | add n1 n2 n3 | sub n1 n2 n3 | mul n1 n2 n3 =>
    exact effect_of_setInt rfl (by simp [formI3]) (by simp [formI3]) rfl h
  | div n1 n2 n3 | mod n1 n2 n3 => exact effect_of_setQuotient rfl (by simp [formI3]) (by simp [formI3]) rfl h
  | ifbs n1 n3 | ifbc n1 n3 => exact effect_of_unless rfl (by simp [formCB]) rfl h
  | ifltl n1 lit n3 => exact effect_of_unless rfl (by simp [formCL]) rfl h
  | ifeq n1 n2 n3 | ifge n1 n2 n3 | ifle n1 n2 n3 | ifne n1 n2 n3 | ifgt n1 n2 n3 =>
    exact effect_of_unless rfl (by simp [formCI]) rfl h
  | jmp n3 => exact effect_of_unless (test := false) rfl (by simp [formJ]) rfl h
  | endScan =>
    cases h
    exact .stop rfl
  | afwd | aknown | arslv =>
    cases h
    exact .goOn
  | unrecognized op =>
    cases h
    exact .report rfl

/-! ### The statements about all instructions -/

theorem bit_setBit_leave {s : State} {a b : Nat} {v : Bit} (h : some (Bank.bit, a) ≠ some (Bank.bit, b)) :
    ((s.setBit a v).leave .next).bit b = s.bit b :=
  read_write_other s.bits a v fun hba => h (by rw [hba])

theorem int_setInt_leave {s : State} {a b : Nat} {v : Word} (h : some (Bank.integer, a) ≠ some (Bank.integer, b)) :
    ((s.setInt a v).leave .next).int b = s.int b :=
  read_write_other s.ints a v fun hba => h (by rw [hba])

/-- Settles O34: each effect leaves the named registers and every cell but the destination as they were. -/
theorem instructionsChangeOnlyTheirCell : Obligations.InstructionsChangeOnlyTheirCell := by
  intro i s t h
  cases effect_of_exec h with
  | storeBit hdest _ =>
    exact ⟨rfl, fun a ha => bit_setBit_leave (hdest ▸ ha), fun _ _ => rfl, fun _ => ⟨rfl, rfl, rfl⟩⟩
  | storeInt hdest _ =>
    exact ⟨rfl, fun _ _ => rfl, fun a ha => int_setInt_leave (hdest ▸ ha), fun _ => ⟨rfl, rfl, rfl⟩⟩
  | report hi => exact ⟨rfl, fun _ _ => rfl, fun _ _ => rfl, fun hnone => absurd hi (hnone _)⟩
  | fault _ | goOn | jump _ _ | stop _ =>
    exact ⟨rfl, fun _ _ => rfl, fun _ _ => rfl, fun _ => ⟨rfl, rfl, rfl⟩⟩

/-- Settles O35: of the effects only the fault has FSM = FAULT after RUN. -/
theorem faultsArePrecise : Obligations.FaultsArePrecise := by
  intro i s t h hrun hfault
  cases effect_of_exec h with
  | @fault cause arg hviolates =>
    refine ⟨cause, arg, rfl, ?_, BitVec.toInt_signExtend_of_le (by decide)⟩
    exact hviolates.imp_right (Or.imp_right And.left)
  | stop _ => cases hfault
  | storeBit _ _ | storeInt _ _ | goOn | jump _ _ | report _ => cases hrun.symm.trans hfault

/-- Settles O36: each effect leaves `pc` in one of the three ways. -/
theorem pcMovesByOutcome : Obligations.PcMovesByOutcome := by
  intro i s t h hrun
  cases effect_of_exec h with
  | fault _ => exact .inr (.inr ⟨rfl, rfl⟩)
  | stop hi => exact .inr (.inl ⟨rfl, hi, rfl⟩)
  | jump htarget _ => exact .inl ⟨hrun, .inr htarget⟩
  | storeBit _ _ | storeInt _ _ | goOn | report _ => exact .inl ⟨hrun, .inl rfl⟩

end Sys2Proof
end

section
/-! The host's operations (spec 10 R27, R33, R41 to R48) and loading (30 R115, R116): what each does outside RUN, in a
lemma of its own, and the statements assembled from these. -/

namespace Sys2Proof

open Machine Safety

section

variable {s : State}

/-! ### Start and the program operations -/

theorem hostStart_of_loaded (hidle : s.fsm = .idle) (hloaded : s.loaded = true) :
    hostStart s = { s with pc := 0, done := false, fellOff := false, fsm := .run } := by
  simp only [hostStart, hidle, hloaded, if_true]

theorem hostStart_of_not_loaded (hidle : s.fsm = .idle) (hloaded : s.loaded = false) :
    hostStart s = enterFault .notLoaded 0 0 0 s := by
  simp only [hostStart, hidle, hloaded, Bool.false_eq_true, if_false]

theorem hostStart_of_ne_idle (hidle : s.fsm ≠ .idle) : hostStart s = s := by
  cases hfsm : s.fsm with
  | idle => exact absurd hfsm hidle
  | run | fault => simp only [hostStart, hfsm]

theorem hostProgInvalidate_of_ne_run (h : s.fsm ≠ .run) :
    hostProgInvalidate s = { s with loaded := false, progLen := 0 } := if_neg h

theorem hostProgWrite_of_accepted (h : s.fsm ≠ .run) (hloaded : s.loaded = false) {i : Half}
    (hi : i.toNat < s.cfg.maxOps) (w : Record) : hostProgWrite i w s = s.setSlot i.toNat w :=
  if_pos ⟨h, hloaded, hi⟩

theorem hostProgWrite_of_refused {i : Half} (h : s.loaded = true ∨ s.cfg.maxOps ≤ i.toNat) (w : Record) :
    hostProgWrite i w s = s := by
  refine if_neg fun ⟨_, hloaded, hi⟩ => ?_
  rcases h with h | h
  · rw [h] at hloaded
    cases hloaded
  · omega

theorem hostProgCommit_of_accepted (h : s.fsm ≠ .run) (hloaded : s.loaded = false) {n : Half}
    (hn : n.toNat ≤ s.cfg.maxOps) : hostProgCommit n s = { s with progLen := n, loaded := true } :=
  if_pos ⟨h, hloaded, hn⟩

theorem hostProgCommit_of_refused {n : Half} (h : s.loaded = true ∨ s.cfg.maxOps < n.toNat) :
    hostProgCommit n s = s := by
  refine if_neg fun ⟨_, hloaded, hn⟩ => ?_
  rcases h with h | h
  · rw [h] at hloaded
    cases hloaded
  · omega

theorem slot_setSlot_same (i : Nat) (w : Record) : (s.setSlot i w).slot i = w := by
  rw [slot_setSlot, if_pos rfl]

theorem slot_setSlot_other {i j : Nat} (h : j ≠ i) (w : Record) : (s.setSlot i w).slot j = s.slot j := by
  rw [slot_setSlot, if_neg h]

end

/-- Settles O49: Start looks at the FSM, and in IDLE at `LOADED`; the fault record of `NOT_LOADED` is zero. -/
theorem startBeginsAScanOrFaults : Obligations.StartBeginsAScanOrFaults :=
  fun _ => ⟨hostStart_of_loaded, hostStart_of_not_loaded, hostStart_of_ne_idle⟩

/-- Settles O50: an accepted write is one `setSlot`, an accepted commit one assignment, and a refused one nothing. -/
theorem programOperationsAct : Obligations.ProgramOperationsAct := by
  intro s h
  refine ⟨hostProgInvalidate_of_ne_run h, ?write, fun i w => (hostProgWrite_of_refused · w),
    fun n hloaded => hostProgCommit_of_accepted h hloaded, fun n => hostProgCommit_of_refused⟩
  case write =>
    intro i w hloaded hi
    rw [applyOp, hostProgWrite_of_accepted h hloaded hi]
    exact ⟨slot_setSlot_same _ w, fun j hj => slot_setSlot_other hj w, rfl⟩

/-! ### Access to the data memories and registers -/

section

variable {s : State} {a : Half}

theorem hostMemWrite_bit_of_valid (h : s.fsm ≠ .run) (ha : Valid a s.cfg.nb) (v : Word) :
    hostMemWrite .bit a v s = s.setBit (cellOf a) (v.extractLsb' 0 1) := by
  rw [hostMemWrite, if_neg h]
  exact if_pos ((inRange_iff _ _).mpr ha)

theorem hostMemWrite_integer_of_valid (h : s.fsm ≠ .run) (ha : Valid a s.cfg.ni) (v : Word) :
    hostMemWrite .integer a v s = s.setInt (cellOf a) v := by
  rw [hostMemWrite, if_neg h]
  exact if_pos ((inRange_iff _ _).mpr ha)

theorem hostMemWrite_bit_of_not_valid (h : s.fsm ≠ .run) (ha : ¬ Valid a s.cfg.nb) (v : Word) :
    hostMemWrite .bit a v s = s := by
  rw [hostMemWrite, if_neg h]
  exact if_neg (mt (inRange_iff _ _).mp ha)

theorem hostMemWrite_integer_of_not_valid (h : s.fsm ≠ .run) (ha : ¬ Valid a s.cfg.ni) (v : Word) :
    hostMemWrite .integer a v s = s := by
  rw [hostMemWrite, if_neg h]
  exact if_neg (mt (inRange_iff _ _).mp ha)

/-- A read puts a value on the port, and counts it if it is free; nothing else changes. -/
theorem hostMemRead_eq (bank : Bank) (a : Half) (s : State) :
    ∃ v d, hostMemRead bank a s = { s with memRdata := v, draws := d } := by
  have hdraw : ∃ v d, drawRead s = { s with memRdata := v, draws := d } := ⟨_, _, rfl⟩
  unfold hostMemRead
  split
  · exact hdraw
  · cases bank with
    | bit =>
      dsimp only
      split
      · exact ⟨_, _, rfl⟩
      · exact hdraw
    | integer =>
      dsimp only
      split
      · exact ⟨_, _, rfl⟩
      · exact hdraw

theorem hostMemRead_bit_of_valid (h : s.fsm ≠ .run) (ha : Valid a s.cfg.nb) :
    hostMemRead .bit a s = { s with memRdata := (s.bit (cellOf a)).zeroExtend 32 } := by
  rw [hostMemRead, if_neg h]
  exact if_pos ((inRange_iff _ _).mpr ha)

theorem hostMemRead_integer_of_valid (h : s.fsm ≠ .run) (ha : Valid a s.cfg.ni) :
    hostMemRead .integer a s = { s with memRdata := s.int (cellOf a) } := by
  rw [hostMemRead, if_neg h]
  exact if_pos ((inRange_iff _ _).mpr ha)

end

/-- Settles O51: a write in the bank is one `setBit` or `setInt`, and one outside it nothing. -/
theorem hostWritesOneCell : Obligations.HostWritesOneCell := by
  intro s a v h
  refine ⟨?bit, ?integer, (hostMemWrite_bit_of_not_valid h · v), (hostMemWrite_integer_of_not_valid h · v)⟩
  case bit =>
    rintro ha t rfl
    rw [applyOp, hostMemWrite_bit_of_valid h ha]
    exact ⟨read_write_same s.bits _ _, fun _ hb => read_write_other s.bits _ _ hb, rfl⟩
  case integer =>
    rintro ha t rfl
    rw [applyOp, hostMemWrite_integer_of_valid h ha]
    exact ⟨read_write_same s.ints _ _, fun _ hb => read_write_other s.ints _ _ hb, rfl⟩

/-- Settles O52: a read in the bank puts the cell on the port. -/
theorem hostReadsTheCell : Obligations.HostReadsTheCell :=
  fun s a h => ⟨hostMemRead_bit_of_valid h, hostMemRead_integer_of_valid h, fun bank => hostMemRead_eq bank a s⟩

/-- The reserved indices of the register-read port (10 R33). -/
theorem register_reserved (s : State) {k : BitVec 4} (hk : 8 ≤ k.toNat) : s.register k = 0 := by
  unfold State.register
  split
  case h_9 => rfl
  all_goals omega

/-- Settles O53: the port is a table of the registers, 0 beyond its end. -/
theorem registerPortReadsEachRegister : Obligations.RegisterPortReadsEachRegister :=
  fun s => ⟨rfl, rfl, rfl, rfl, rfl, rfl, rfl, rfl, fun _ => register_reserved s, fun _ => rfl⟩

/-! ### STATUS -/

theorem getLsbD_append_ofBool_zero {n : Nat} (x : BitVec n) (b : Bool) : (x ++ BitVec.ofBool b).getLsbD 0 = b := by
  rw [BitVec.getLsbD_append, if_pos Nat.one_pos, BitVec.getLsbD_ofBool]
  exact Bool.true_and b

theorem getLsbD_append_ofBool_succ {n : Nat} (x : BitVec n) (b : Bool) (i : Nat) :
    (x ++ BitVec.ofBool b).getLsbD (i + 1) = x.getLsbD i := by
  rw [BitVec.getLsbD_append, if_neg (by omega), Nat.add_sub_cancel]

/-- The six flags of STATUS are its lowest bits (10 R27). -/
theorem status_flags (s : State) :
    s.status.getLsbD 0 = s.loaded ∧ s.status.getLsbD 1 = s.busy ∧ s.status.getLsbD 2 = s.done ∧
    s.status.getLsbD 3 = s.faulted ∧ s.status.getLsbD 4 = s.fellOff ∧ s.status.getLsbD 5 = s.unk := by
  rw [State.status]
  simp only [getLsbD_append_ofBool_succ, getLsbD_append_ofBool_zero, and_self]

/-- Above the flags: two reserved bits, the cause, and twenty reserved bits (10 R27). -/
theorem status_upper_fields (s : State) :
    s.status.extractLsb' 6 2 = 0 ∧ s.status.extractLsb' 12 20 = 0 ∧ s.status.extractLsb' 8 4 = s.faultCause.code := by
  rw [State.status]
  simp (disch := decide) only [BitVec.extractLsb'_append_eq_of_le, Nat.reduceSub]
  exact ⟨BitVec.extractLsb'_append_eq_right, BitVec.extractLsb'_eq_self, BitVec.extractLsb'_append_eq_right⟩

/-- Settles O54: the flags, the reserved bits and the cause's code are parts of the word STATUS is joined from. -/
theorem statusHoldsItsFields : Obligations.StatusHoldsItsFields := by
  intro s
  obtain ⟨hloaded, hbusy, hdone, hfault, hfellOff, hunk⟩ := status_flags s
  obtain ⟨hlow, hhigh, hcause⟩ := status_upper_fields s
  refine ⟨hloaded, hbusy, hdone, hfault, hfellOff, hunk, hlow, hhigh, ?_⟩
  rw [hcause]
  cases s.faultCause <;> rfl

/-! ### Loading -/

section

variable {s : State}

/-- Loading records writes program memory alone, whichever of the writes are accepted. -/
theorem writeRecords_frame (n : Nat) (records : List Record) (s : State) :
    writeRecords n records s = { s with prog := (writeRecords n records s).prog } := by
  induction records generalizing n s with
  | nil => rfl
  | cons w records ih =>
    rw [writeRecords, hostProgWrite]
    split <;> exact ih _ _

/-- ProgWrite of records that fit, one after the other: each record in its slot (30 R115). -/
theorem slot_writeRecords (hrun : s.fsm ≠ .run) (hloaded : s.loaded = false) (hmax : s.cfg.maxOps ≤ 32768) {n : Nat}
    {records : List Record} (hfit : n + records.length ≤ s.cfg.maxOps) (j : Nat) :
    (writeRecords n records s).slot j =
      if h : n ≤ j ∧ j - n < records.length then records[j - n]'h.2 else s.slot j := by
  induction records generalizing n s with
  | nil => simp [writeRecords]
  | cons w records ih =>
    rw [List.length_cons] at hfit
    have hi : (BitVec.ofNat 16 n).toNat = n := Nat.mod_eq_of_lt (by omega)
    have hwrite : writeRecords n (w :: records) s = writeRecords (n + 1) records (s.setSlot n w) := by
      rw [writeRecords, hostProgWrite_of_accepted hrun hloaded (by omega), hi]
    rw [hwrite, ih (s := s.setSlot n w) (n := n + 1) hrun hloaded hmax (by rw [setSlot_cfg]; omega)]
    rcases lt_trichotomy j n with hj | rfl | hj
    · rw [dif_neg (by omega), dif_neg (by omega), slot_setSlot_other (by omega)]
    · rw [dif_neg (by omega), dif_pos (by simp), slot_setSlot_same]
      simp
    · by_cases hlast : j - n < records.length + 1
      · rw [dif_pos (by omega), dif_pos ⟨by omega, hlast⟩]
        have hsucc : j - n = j - (n + 1) + 1 := by omega
        simp only [hsucc, List.getElem_cons_succ]
      · rw [dif_neg (by omega), dif_neg (by simp; omega), slot_setSlot_other (by omega)]

/-- The state a load writes its records in: nothing loaded (10 R41). -/
abbrev unloaded (s : State) : State := { s with loaded := false, progLen := 0 }

/-- The program memory after a load has written its records. -/
abbrev loadedProg (records : List Record) (s : State) : Cells 96 := (writeRecords 0 records (unloaded s)).prog

theorem slot_writeRecords_unloaded (hrun : s.fsm ≠ .run) (hmax : s.cfg.maxOps ≤ 32768) {records : List Record}
    (hfit : records.length ≤ s.cfg.maxOps) (j : Nat) :
    (writeRecords 0 records (unloaded s)).slot j = if h : j < records.length then records[j] else s.slot j := by
  rw [slot_writeRecords (s := unloaded s) hrun rfl hmax ((Nat.zero_add _).trans_le hfit)]
  simp only [Nat.zero_le, true_and, Nat.sub_zero]
  rfl

section

variable {p : Image}

/-- A load that fits is accepted at every operation, so it is one assignment (30 R115). -/
theorem commitImage_of_fits (hrun : s.fsm ≠ .run) (hfit : p.records.length ≤ s.cfg.maxOps) :
    commitImage p s = { s with
      loaded := true, progLen := BitVec.ofNat 16 p.records.length, prog := loadedProg p.records s
      iomapX := p.tables.x, iomapY := p.tables.y, iomapA := p.tables.a, cycleTime := p.tables.cycleTime
      loadReport := .loaded } := by
  have hlen : (BitVec.ofNat 16 p.records.length).toNat ≤ s.cfg.maxOps :=
    (Nat.mod_le _ _).trans hfit
  have hcommit : hostProgCommit (BitVec.ofNat 16 p.records.length) (writeRecords 0 p.records (hostProgInvalidate s)) =
      { s with loaded := true, progLen := BitVec.ofNat 16 p.records.length, prog := loadedProg p.records s } := by
    rw [hostProgInvalidate_of_ne_run hrun, writeRecords_frame]
    exact hostProgCommit_of_accepted (s := { unloaded s with prog := loadedProg p.records s }) hrun rfl hlen
  exact congrArg (fun t => { adoptTables p.tables t with loadReport := .loaded }) hcommit

/-- Whatever a load commits, it changes nothing but the program and the host's tables and report. -/
theorem commitImage_frame (p : Image) (s : State) : ∃ l n m, commitImage p s = { s with
    loaded := l, progLen := n, prog := m, iomapX := p.tables.x, iomapY := p.tables.y, iomapA := p.tables.a
    cycleTime := p.tables.cycleTime, loadReport := .loaded } := by
  have hinvalidate : ∃ l n, hostProgInvalidate s = { s with loaded := l, progLen := n } := by
    unfold hostProgInvalidate
    split <;> exact ⟨_, _, rfl⟩
  obtain ⟨l, n, hinvalidate⟩ := hinvalidate
  have hcommit : ∃ l n m, hostProgCommit (BitVec.ofNat 16 p.records.length)
      (writeRecords 0 p.records (hostProgInvalidate s)) = { s with loaded := l, progLen := n, prog := m } := by
    rw [writeRecords_frame, hinvalidate, hostProgCommit]
    split <;> exact ⟨_, _, _, rfl⟩
  obtain ⟨l, n, m, hcommit⟩ := hcommit
  exact ⟨l, n, m, congrArg (fun t => { adoptTables p.tables t with loadReport := .loaded }) hcommit⟩

theorem slot_commitImage (hrun : s.fsm ≠ .run) (hmax : s.cfg.maxOps ≤ 32768)
    (hfit : p.records.length ≤ s.cfg.maxOps) (j : Nat) :
    (commitImage p s).slot j = if h : j < p.records.length then p.records[j] else s.slot j := by
  rw [← slot_writeRecords_unloaded hrun hmax hfit, commitImage_of_fits hrun hfit, writeRecords_frame]
  rfl

end

theorem loadProgram_of_ok {source : Source} {p : Image} (h : readContainer s.cfg source = .ok p) :
    loadProgram source s = commitImage p s := by
  rw [loadProgram, h]

theorem loadProgram_of_error (hrun : s.fsm ≠ .run) {source : Source} {e : LoadError}
    (h : readContainer s.cfg source = .error e) :
    loadProgram source s = { s with loaded := false, progLen := 0, loadReport := .failed e } := by
  rw [loadProgram, h]
  dsimp only
  rw [hostProgInvalidate_of_ne_run hrun]

end

/-- Settles O56: what is read fits the block, so `commitImage_of_fits` says what the load does. -/
theorem loadCommitsTheProgram : Obligations.LoadCommitsTheProgram := by
  rintro s t source p ⟨_, _, ⟨_, hmax⟩, _⟩ hrun hread rfl
  have hfit := readContainer_length hread
  have hslots := slot_commitImage hrun hmax hfit
  rw [loadProgram_of_ok hread]
  refine ⟨?loaded, ?progLen, ?written, ?kept, ?frame⟩
  case loaded => rw [commitImage_of_fits hrun hfit]
  case progLen =>
    rw [commitImage_of_fits hrun hfit]
    exact Nat.mod_eq_of_lt (by omega)
  case written => exact fun j hj => (hslots j).trans (dif_pos hj)
  case kept => exact fun j hj => (hslots j).trans (dif_neg (Nat.not_lt.mpr hj))
  case frame => rw [commitImage_of_fits hrun hfit]

/-- Settles O57: a failed load is ProgInvalidate with the error reported, and a Start then finds nothing loaded. -/
theorem failedLoadLeavesNothingLoaded : Obligations.FailedLoadLeavesNothingLoaded := by
  intro s source e hrun hread
  have hload := loadProgram_of_error hrun hread
  refine ⟨hload, fun hidle => ?_⟩
  have hstart := hostStart_of_not_loaded (s := loadProgram source s) (by rw [hload]; exact hidle) (by rw [hload])
  rw [applyOp, hstart, enterFault]

end Sys2Proof
end

section
/-! Turns and runs (spec 10 R49, 40 R130 to R142): which step is the block's, what the block's step is, and the
statements about single steps, hanging scans and the scan executor. -/

namespace Sys2Proof

open Machine Safety

/-! ### The block's step -/

section

variable {s : State}

/-- The step when the host waits is the block's own. -/
theorem nextAction_of_enginesTurn (h : EnginesTurn s) : nextAction s = engineTurn s := by
  obtain ⟨hrun, hwaits⟩ := h
  unfold nextAction
  split
  next => rfl
  next m rest hm =>
    obtain ⟨hpass, hallowed⟩ := hwaits m rest hm
    rw [if_neg hpass, hrun, hallowed, if_neg Bool.false_ne_true]

/-- A host that passes in RUN gives the turn to the block. -/
theorem nextAction_of_pass {rest : List HostMove} (hrun : s.fsm = .run) (hm : s.moves = .pass :: rest) :
    nextAction s = engineTurn { s with moves := rest } := by
  have hfault : s.fsm ≠ .fault := by rw [hrun]; decide
  simp only [nextAction, hm, if_true, hfault, if_false]

theorem engineTurn_of_pc_lt (hrun : s.fsm = .run) (hpc : s.pc.toNat < s.progLen.toNat) :
    engineTurn s = .run s.fetch s := by
  have hne : s.pc ≠ s.progLen := fun h => by
    rw [h] at hpc
    exact Nat.lt_irrefl _ hpc
  simp only [engineTurn, hrun, hne, hpc, if_false, if_true]

theorem engineTurn_of_pc_eq (hrun : s.fsm = .run) (hpc : s.pc = s.progLen) : engineTurn s = .become s.fallOff := by
  simp only [engineTurn, hrun, hpc, if_true]

theorem step_of_nextAction_run {i : Instr} {u : State} (h : nextAction s = .run i u) : step s = exec i u := by
  rw [step, h]

theorem step_of_nextAction_become {u : State} (h : nextAction s = .become u) : step s = .next u := by
  rw [step, h]

theorem step_of_pc_lt (h : EnginesTurn s) (hpc : s.pc.toNat < s.progLen.toNat) : step s = exec s.fetch s :=
  step_of_nextAction_run ((nextAction_of_enginesTurn h).trans (engineTurn_of_pc_lt h.1 hpc))

theorem step_of_pc_eq (h : EnginesTurn s) (hpc : s.pc = s.progLen) : step s = .next s.fallOff :=
  step_of_nextAction_become ((nextAction_of_enginesTurn h).trans (engineTurn_of_pc_eq h.1 hpc))

theorem enginesTurn_of_moves_eq_nil (hrun : s.fsm = .run) (hm : s.moves = []) : EnginesTurn s :=
  ⟨hrun, fun _ _ h => by rw [hm] at h; cases h⟩

end

/-- Settles O8: in either case the block's turn is to run the fetched instruction. -/
theorem stepRunsTheDecodedInstruction : Obligations.StepRunsTheDecodedInstruction := by
  refine ⟨fun s => step_of_pc_lt, fun s rest hrun hm hpc => ?_⟩
  have hturn : engineTurn { s with moves := rest } = .run s.fetch { s with moves := rest } :=
    engineTurn_of_pc_lt hrun hpc
  exact step_of_nextAction_run ((nextAction_of_pass hrun hm).trans hturn)

/-- Settles O9: at `pc = N` the block's turn is the end of the slots. -/
theorem scanEndsAtTheLastSlot : Obligations.ScanEndsAtTheLastSlot := fun _ => step_of_pc_eq

/-- Below 65535 the placed program reaches past `pc`. -/
theorem pc_lt_progLen_aboutToRun {s : State} (hpc : s.pc.toNat < 65535) (w : Record) :
    (s.aboutToRun w).pc.toNat < (s.aboutToRun w).progLen.toNat := by
  have hsucc := toNat_add_one_of_lt hpc
  change s.pc.toNat < (if s.pc.toNat < s.progLen.toNat then s.progLen else s.pc + 1).toNat
  split
  · assumption
  · omega

/-- Settles O10: the placed word is in the slot `pc` names, and the engine has the turn. -/
theorem placedWordRunsNext : Obligations.PlacedWordRunsNext := by
  intro s nbits w hpc
  have hslot : (s.withFetchWord nbits w).slot s.pc.toNat = BitVec.ofNat 96 (w % 2 ^ nbits) := slot_setSlot_same _ _
  have hfetch : (s.withFetchWord nbits w).fetch = decode s.cfg (BitVec.ofNat 96 (w % 2 ^ nbits)) :=
    congrArg (decode s.cfg) hslot
  rw [step_of_pc_lt (s := s.withFetchWord nbits w) (enginesTurn_of_moves_eq_nil rfl rfl)
    (pc_lt_progLen_aboutToRun hpc _), hfetch]

/-! ### A pending move that has to wait -/

section

variable {s r t : State} (ms : List HostMove)

theorem firstViolation_with_moves (s : State) (ops : List Operand) :
    firstViolation { s with moves := ms } ops = firstViolation s ops := by
  induction ops with
  | nil => rfl
  | cons o rest ih =>
    have hviolation : o.violation { s with moves := ms } = o.violation s := by cases o <;> rfl
    rw [firstViolation, firstViolation, hviolation, ih]

theorem checked_with_moves {x : Opcode} {ops : List Operand} (h : checked x ops s r = .next t) :
    checked x ops { s with moves := ms } { r with moves := ms } = .next { t with moves := ms } := by
  unfold checked at h ⊢
  rw [firstViolation_with_moves]
  split at h <;> cases h <;> rfl

/-- No instruction reads or writes the pending moves. -/
theorem exec_with_moves {i : Instr} (h : exec i s = .next t) :
    exec i { s with moves := ms } = .next { t with moves := ms } := by
  cases i with
  | unrecognized op =>
    cases h
    rfl
  | endScan | afwd | aknown | arslv =>
    cases h
    rfl
  | _ => exact checked_with_moves ms h

end

/-- Settles O46: the forbidden move leaves the turn to the block, whose step does not depend on the pending moves. -/
theorem hostMovesWaitWhileAScanRuns : Obligations.HostMovesWaitWhileAScanRuns := by
  intro s t m rest hrun hm hpass hallowed h
  have halone : EnginesTurn { s with moves := [] } := enginesTurn_of_moves_eq_nil hrun rfl
  have hturn : EnginesTurn s := ⟨hrun, fun m' rest' hm' => by
    cases hm.symm.trans hm'
    exact ⟨hpass, hallowed⟩⟩
  rcases step_cases h with ⟨_, _, hnil, _⟩ | ⟨_, _, _, hcase⟩
  · cases hnil
  rcases hcase with ⟨hidle, _⟩ | ⟨_, hpc, _⟩ | ⟨_, hpc, _⟩
  · cases hrun.symm.trans hidle
  · rw [step_of_pc_eq halone hpc] at h
    cases h
    rw [step_of_pc_eq hturn hpc, ← hm]
    rfl
  · rw [step_of_pc_lt halone hpc] at h
    rw [step_of_pc_lt hturn hpc, ← hm]
    exact exec_with_moves (s := { s with moves := [] }) s.moves h

/-! ### Runs -/

theorem run_zero (s : State) : Host.Core.run core 0 s = .next s := rfl

theorem run_succ_of_next {s u : State} (h : step s = .next u) (k : Nat) :
    Host.Core.run core (k + 1) s = Host.Core.run core k u := by
  have hcore : core.step s = .next u := h
  simp only [Host.Core.run, hcore]

/-- A run of at least one step that answers a state begins with a step that answers one. -/
theorem run_succ_eq_next {s t : State} {k : Nat} (h : Host.Core.run core (k + 1) s = .next t) :
    ∃ u, step s = .next u ∧ Host.Core.run core k u = .next t := by
  cases hstep : step s with
  | next u => exact ⟨u, rfl, (run_succ_of_next hstep k).symm.trans h⟩
  | fault f =>
    have hcore : core.step s = .fault f := hstep
    simp only [Host.Core.run, hcore] at h
    cases h
  | refused r => exact absurd hstep (step_not_refused s r)

theorem run_of_step_self {s : State} (h : step s = .next s) (k : Nat) : Host.Core.run core k s = .next s := by
  induction k with
  | zero => exact run_zero s
  | succ k ih => rw [run_succ_of_next h, ih]

/-- Settles O47: a jump to `pc` leaves the state as it is, so every step does. -/
theorem selfJumpHangsTheScan : Obligations.SelfJumpHangsTheScan := by
  rintro s n3 k hrun hm hpc hfetch hvalid rfl
  refine run_of_step_self ?_ k
  rw [step_of_pc_lt (enginesTurn_of_moves_eq_nil hrun hm) hpc, hfetch]
  exact (jmpSetsThePc.2 s s.pc).1 hvalid

/-- `t` is the first state in which the FSM is not RUN, reached from `s` within `k` steps. -/
abbrev EndsWithin (k : Nat) (s t : State) : Prop :=
  t.fsm ≠ .run ∧ ∃ j, j ≤ k ∧ Host.Core.run core j s = .next t ∧
    ∀ i u, i < j → Host.Core.run core i s = .next u → u.fsm = .run

/-- Out of RUN the first such state is the present one. -/
theorem endsWithin_of_ne_run {k : Nat} {s t : State} (hs : s.fsm ≠ .run) : EndsWithin k s t ↔ s = t := by
  constructor
  · rintro ⟨_, j, _, hrun, hbefore⟩
    cases j with
    | zero => exact Host.Outcome.next.inj hrun
    | succ j => exact absurd (hbefore 0 s (Nat.succ_pos j) (run_zero s)) hs
  · rintro rfl
    exact ⟨hs, 0, Nat.zero_le k, run_zero s, fun _ _ hi => absurd hi (Nat.not_lt_zero _)⟩

theorem not_endsWithin_zero {s t : State} (hs : s.fsm = .run) : ¬ EndsWithin 0 s t := by
  rintro ⟨ht, j, hj, hrun, _⟩
  obtain rfl : j = 0 := Nat.le_zero.mp hj
  exact ht (Host.Outcome.next.inj hrun ▸ hs)

/-- In RUN the first such state is the one of the next state, with one step less. -/
theorem endsWithin_succ {k : Nat} {s t : State} (hs : s.fsm = .run) :
    EndsWithin (k + 1) s t ↔ ∃ u, step s = .next u ∧ EndsWithin k u t := by
  constructor
  · rintro ⟨ht, j, hj, hrun, hbefore⟩
    cases j with
    | zero => exact absurd (Host.Outcome.next.inj hrun ▸ hs) ht
    | succ j =>
      obtain ⟨u, hstep, hrest⟩ := run_succ_eq_next hrun
      exact ⟨u, hstep, ht, j, Nat.le_of_succ_le_succ hj, hrest, fun i v hi hv =>
        hbefore (i + 1) v (Nat.succ_lt_succ hi) ((run_succ_of_next hstep i).trans hv)⟩
  · rintro ⟨u, hstep, ht, j, hj, hrun, hbefore⟩
    refine ⟨ht, j + 1, Nat.succ_le_succ hj, (run_succ_of_next hstep j).trans hrun, fun i v hi hv => ?_⟩
    cases i with
    | zero => exact Host.Outcome.next.inj hv ▸ hs
    | succ i => exact hbefore i v (Nat.lt_of_succ_lt_succ hi) ((run_succ_of_next hstep i).symm.trans hv)

theorem runScan_of_ne_run {k : Nat} {s : State} (hs : s.fsm ≠ .run) : runScan k s = some s := by
  cases k <;> rw [runScan, if_neg hs]

theorem runScan_succ_eq_some {k : Nat} {s t : State} (hs : s.fsm = .run) :
    runScan (k + 1) s = some t ↔ ∃ u, step s = .next u ∧ runScan k u = some t := by
  rw [runScan, if_pos hs]
  cases step s <;> simp

/-- Settles O48: the executor and the first end of a scan have the same recursion over the fuel. -/
theorem scanExecutorReachesTheEnd : Obligations.ScanExecutorReachesTheEnd := by
  intro k s t
  change runScan k s = some t ↔ EndsWithin k s t
  induction k generalizing s with
  | zero =>
    by_cases hs : s.fsm = .run
    · rw [runScan, if_pos hs]
      exact iff_of_false (by simp) (not_endsWithin_zero hs)
    · rw [runScan_of_ne_run hs, endsWithin_of_ne_run hs, Option.some_inj]
  | succ k ih =>
    by_cases hs : s.fsm = .run
    · rw [runScan_succ_eq_some hs, endsWithin_succ hs]
      exact exists_congr fun u => and_congr_right fun _ => ih u
    · rw [runScan_of_ne_run hs, endsWithin_of_ne_run hs, Option.some_inj]

end Sys2Proof
end

section
/-! The host's moves (spec 10 R40 to R50, 70 R270 to R274): which are made and what each sequence plans, and
`MoveEffect m s t`, which lists once what an allowed move can make of the state. -/

namespace Sys2Proof

open Machine Safety

/-! ### Reset -/

theorem pinAddress_replicate_none (size n : Nat) : pinAddress (List.replicate size none) n = none := by
  rw [pinAddress, List.getElem?_replicate]
  split <;> rfl

/-- STATUS with every flag clear, in IDLE, and no cause. -/
theorem status_initial (c : Config) : (State.initial c).status = 0 := by
  change (0 : BitVec 20) ++ FaultCause.none.code ++ (0 : BitVec 2) ++ BitVec.ofBool false ++ BitVec.ofBool false ++
    BitVec.ofBool false ++ BitVec.ofBool false ++ BitVec.ofBool false ++ BitVec.ofBool false = (0 : BitVec 32)
  decide

/-- Settles O37: the reset state is written out in `State.initial`, and the reference values in `Config.reference`. -/
theorem resetHasTheResetValues : Obligations.ResetHasTheResetValues := by
  refine ⟨?values, rfl, rfl, rfl, rfl, rfl, rfl, rfl, rfl, rfl, rfl⟩
  case values =>
    rintro c s rfl
    have hmaps (n : Nat) : pinAddress (State.initial c).iomapX n = none ∧ pinAddress (State.initial c).iomapY n = none ∧
        pinAddress (State.initial c).iomapA n = none :=
      ⟨pinAddress_replicate_none _ n, pinAddress_replicate_none _ n, pinAddress_replicate_none _ n⟩
    exact ⟨rfl, rfl, rfl, rfl, rfl, rfl, rfl, rfl, rfl, rfl, rfl, rfl, rfl, rfl, status_initial c, fun _ => rfl,
      fun _ => rfl, hmaps, rfl⟩

/-! ### The moves that are made -/

section

variable {s : State} {m : HostMove} {rest : List HostMove}

theorem step_of_allowed (hm : s.moves = m :: rest) (hpass : m ≠ .pass) (hallowed : m.allowed s.fsm = true) :
    step s = .next (performMove m { s with moves := rest }) := by
  refine step_of_nextAction_become ?_
  simp only [nextAction, hm, hpass, hallowed, if_false, if_true]

/-- Outside RUN the block only waits when the host passes (60 R246, R257). -/
theorem step_of_pass (hm : s.moves = .pass :: rest) (hrun : s.fsm ≠ .run) :
    step s = .next { s with moves := rest } := by
  refine step_of_nextAction_become ?_
  cases hfsm : s.fsm with
  | idle => simp only [nextAction, hm, hfsm, engineTurn, if_true, reduceCtorEq, if_false]
  | run => exact absurd hfsm hrun
  | fault => simp only [nextAction, hm, hfsm, if_true]

theorem allowed_idle (m : HostMove) : m.allowed .idle = true := rfl

theorem allowed_fault (m : HostMove) : m.allowed .fault = true := rfl

theorem allowed_run_iff : m.allowed .run = true ↔ m = .op .reset ∨ ∃ k, m = .op (.regRead k) := by
  cases m with
  | op o => cases o <;> simp [HostMove.allowed]
  | _ => simp [HostMove.allowed]

/-- An allowed move that is neither a Reset nor a RegRead is made outside RUN (10 R49). -/
theorem ne_run_of_allowed (h : m.allowed s.fsm = true) (hreset : m ≠ .op .reset) (hread : ∀ k, m ≠ .op (.regRead k)) :
    s.fsm ≠ .run := by
  intro hrun
  rw [hrun, allowed_run_iff] at h
  rcases h with h | ⟨k, h⟩
  · exact hreset h
  · exact hread k h

end

/-- Settles O38: a Reset is allowed in every FSM state, and what it gives is the reset state but for the host's ports,
report, moves and the counters. -/
theorem resetMoveResetsTheBlock : Obligations.ResetMoveResetsTheBlock := by
  intro s rest hm
  have hallowed : (HostMove.op .reset).allowed s.fsm = true := by cases s.fsm <;> rfl
  refine ⟨_, step_of_allowed hm (by decide) hallowed, ?_⟩
  exact ⟨rfl, rfl, rfl, rfl, rfl, rfl, status_initial s.cfg, rfl, rfl, rfl, rfl, rfl, fun _ => rfl, fun _ => rfl⟩

/-! ### The moves a sequence plans -/

theorem readInputsMoves_eq_filterMap (map : List (Option Nat)) (pins : List (Nat × Bit)) :
    readInputsMoves map pins = pins.filterMap (fun p => (map[p.1]?).join.map (fun a =>
      HostMove.op (.memWrite .bit (BitVec.ofNat 16 a) (p.2.zeroExtend 32)))) := by
  induction pins with
  | nil => rfl
  | cons p pins ih =>
    rw [readInputsMoves, pinAddress, ih, List.filterMap_cons]
    cases (map[p.1]?).join <;> rfl

theorem readMappedMoves_eq_filterMap (bank : Bank) (map : List (Option Nat)) :
    readMappedMoves bank map =
      map.filterMap (fun e => e.map (fun a => HostMove.op (.memRead bank (BitVec.ofNat 16 a)))) := by
  induction map with
  | nil => rfl
  | cons e map ih =>
    rw [List.filterMap_cons]
    cases e with
    | none => exact ih
    | some a => exact congrArg _ ih

/-- Settles O60: which move is made, which are allowed, and each planned sequence as a `filterMap` over its map. -/
theorem hostMovesAreMadeWhenAllowed : Obligations.HostMovesAreMadeWhenAllowed := by
  refine ⟨fun s m rest => step_of_allowed, fun s rest => step_of_pass,
    fun m => ⟨allowed_idle m, allowed_fault m, allowed_run_iff⟩, fun s => ?_⟩
  refine ⟨fun o => rfl, fun source => rfl, fun pins => ?readInputs, ?writeOutputs, ?readAnalog, fun pins => rfl, rfl⟩
  case readInputs => rw [performMove, State.plan, readInputsMoves_eq_filterMap]
  case writeOutputs => rw [performMove, State.plan, readMappedMoves_eq_filterMap]
  case readAnalog => rw [performMove, State.plan, readMappedMoves_eq_filterMap]

/-! ### What an allowed move can do -/

/-- The states an allowed move of the host can lead to. `ports` covers reads, planning and waiting, which change only
what is the model's or the host's own. -/
inductive MoveEffect (m : HostMove) (s : State) : State → Prop
  | reset (hm : m = .op .reset) : MoveEffect m s (hostReset s)
  | start (hidle : s.fsm = .idle) (hloaded : s.loaded = true) :
      MoveEffect m s { s with pc := 0, done := false, fellOff := false, fsm := .run }
  | startFault (hidle : s.fsm = .idle) (hloaded : s.loaded = false) : MoveEffect m s (enterFault .notLoaded 0 0 0 s)
  | unload {report : LoadReport} (hrun : s.fsm ≠ .run) :
      MoveEffect m s { s with loaded := false, progLen := 0, loadReport := report }
  | writeSlot {i : Half} {w : Record} (hm : m = .op (.progWrite i w)) (hi : i.toNat < s.cfg.maxOps) :
      MoveEffect m s (s.setSlot i.toNat w)
  | commit {n : Half} (hm : m = .op (.progCommit n)) (hrun : s.fsm ≠ .run) (hn : n.toNat ≤ s.cfg.maxOps) :
      MoveEffect m s { s with progLen := n, loaded := true }
  | writeBit {a : Nat} {v : Bit} (ha : a < s.cfg.nb) : MoveEffect m s (s.setBit a v)
  | writeInt {a : Nat} {v : Word} (ha : a < s.cfg.ni) : MoveEffect m s (s.setInt a v)
  | load {source : Source} {p : Image} (hrun : s.fsm ≠ .run) (hread : readContainer s.cfg source = .ok p) :
      MoveEffect m s (commitImage p s)
  | ports {v u : Word} {d : Nat} {planned : List HostMove} (hplanned : ∀ m' ∈ planned, ¬ ProgramsByHand m') :
      MoveEffect m s { s with memRdata := v, regRdata := u, draws := d, moves := planned ++ s.moves }

section

variable {m : HostMove} {s : State}

theorem moveEffect_self : MoveEffect m s s :=
  .ports (v := s.memRdata) (u := s.regRdata) (d := s.draws) (planned := []) (fun _ h => by cases h)

theorem moveEffect_plan {planned : List HostMove} (h : ∀ m' ∈ planned, ¬ ProgramsByHand m') :
    MoveEffect m s (s.plan planned) :=
  .ports (v := s.memRdata) (u := s.regRdata) (d := s.draws) h

theorem moveEffect_hostStart : MoveEffect m s (hostStart s) := by
  by_cases hidle : s.fsm = .idle
  · cases hloaded : s.loaded with
    | true =>
      rw [hostStart_of_loaded hidle hloaded]
      exact .start hidle hloaded
    | false =>
      rw [hostStart_of_not_loaded hidle hloaded]
      exact .startFault hidle hloaded
  · rw [hostStart_of_ne_idle hidle]
    exact moveEffect_self

theorem moveEffect_hostMemRead (bank : Bank) (a : Half) : MoveEffect m s (hostMemRead bank a s) := by
  obtain ⟨v, d, hread⟩ := hostMemRead_eq bank a s
  rw [hread]
  exact .ports (v := v) (u := s.regRdata) (d := d) (planned := []) (fun _ h => by cases h)

theorem moveEffect_hostMemWrite (hrun : s.fsm ≠ .run) (bank : Bank) (a : Half) (v : Word) :
    MoveEffect m s (hostMemWrite bank a v s) := by
  cases bank with
  | bit =>
    by_cases ha : Valid a s.cfg.nb
    · rw [hostMemWrite_bit_of_valid hrun ha]
      exact .writeBit (cellOf_lt ((inRange_iff _ _).mpr ha))
    · rw [hostMemWrite_bit_of_not_valid hrun ha]
      exact moveEffect_self
  | integer =>
    by_cases ha : Valid a s.cfg.ni
    · rw [hostMemWrite_integer_of_valid hrun ha]
      exact .writeInt (cellOf_lt ((inRange_iff _ _).mpr ha))
    · rw [hostMemWrite_integer_of_not_valid hrun ha]
      exact moveEffect_self

theorem moveEffect_hostProgWrite (i : Half) (w : Record) :
    MoveEffect (.op (.progWrite i w)) s (hostProgWrite i w s) := by
  unfold hostProgWrite
  split
  next h => exact .writeSlot rfl h.2.2
  next => exact moveEffect_self

theorem moveEffect_hostProgCommit (n : Half) : MoveEffect (.op (.progCommit n)) s (hostProgCommit n s) := by
  unfold hostProgCommit
  split
  next h => exact .commit rfl h.1 h.2.2
  next => exact moveEffect_self

theorem moveEffect_loadProgram (hrun : s.fsm ≠ .run) (source : Source) : MoveEffect m s (loadProgram source s) := by
  cases hread : readContainer s.cfg source with
  | ok p =>
    rw [loadProgram_of_ok hread]
    exact .load hrun hread
  | error e =>
    rw [loadProgram_of_error hrun hread]
    exact .unload hrun

/-- A sequence that reads or writes data cells plans no write of program memory. -/
theorem not_programsByHand_of_mem_readInputsMoves {map : List (Option Nat)} {pins : List (Nat × Bit)} {m : HostMove}
    (h : m ∈ readInputsMoves map pins) : ¬ ProgramsByHand m := by
  rw [readInputsMoves_eq_filterMap] at h
  obtain ⟨p, _, hp⟩ := List.mem_filterMap.mp h
  obtain ⟨a, _, rfl⟩ := Option.map_eq_some_iff.mp hp
  simp

theorem not_programsByHand_of_mem_readMappedMoves {bank : Bank} {map : List (Option Nat)} {m : HostMove}
    (h : m ∈ readMappedMoves bank map) : ¬ ProgramsByHand m := by
  rw [readMappedMoves_eq_filterMap] at h
  obtain ⟨e, _, he⟩ := List.mem_filterMap.mp h
  obtain ⟨a, _, rfl⟩ := Option.map_eq_some_iff.mp he
  simp

theorem moveEffect_applyOp {o : HostOp} (h : (HostMove.op o).allowed s.fsm = true) :
    MoveEffect (.op o) s (applyOp o s) := by
  cases o with
  | reset => exact .reset rfl
  | progInvalidate =>
    have hrun := ne_run_of_allowed h (by simp) (by simp)
    rw [applyOp, hostProgInvalidate_of_ne_run hrun]
    exact .unload (report := s.loadReport) hrun
  | progWrite i w => exact moveEffect_hostProgWrite i w
  | progCommit n => exact moveEffect_hostProgCommit n
  | start => exact moveEffect_hostStart
  | memRead bank a => exact moveEffect_hostMemRead bank a
  | memWrite bank a v => exact moveEffect_hostMemWrite (ne_run_of_allowed h (by simp) (by simp)) bank a v
  | regRead k =>
    exact .ports (v := s.memRdata) (u := s.register k) (d := s.draws) (planned := []) (fun _ h => by cases h)

theorem moveEffect_performMove (h : m.allowed s.fsm = true) : MoveEffect m s (performMove m s) := by
  cases m with
  | op o => exact moveEffect_applyOp h
  | pass => exact moveEffect_self
  | load source => exact moveEffect_loadProgram (ne_run_of_allowed h (by simp) (by simp)) source
  | readInputs pins => exact moveEffect_plan fun _ => not_programsByHand_of_mem_readInputsMoves
  | writeOutputs => exact moveEffect_plan fun _ => not_programsByHand_of_mem_readMappedMoves
  | readAnalog => exact moveEffect_plan fun _ => not_programsByHand_of_mem_readMappedMoves
  | period pins =>
    rw [performMove]
    split
    · exact moveEffect_self
    · exact moveEffect_plan (by simp)
  | afterScan =>
    rw [performMove]
    split
    · exact moveEffect_self
    · exact moveEffect_plan (by simp)

end

end Sys2Proof
end

section
/-! What a step can do, said once: a move of the host or the block's turn. What no step but a Reset changes follows: the
configuration, the fault record outside fault entry, and the report of unrecognized opcodes (spec 10 R30 to R32, 60
R246). -/

namespace Sys2Proof

open Machine Safety

/-! ### The block's turn and the step -/

/-- The states the block's turn can lead to (40 R131 to R134, 60 R257). -/
inductive BlockEffect (s : State) : State → Prop
  | wait (hidle : s.fsm = .idle) : BlockEffect s s
  | fallOff (hrun : s.fsm = .run) (hpc : s.pc = s.progLen) : BlockEffect s s.fallOff
  | exec {t : State} (hrun : s.fsm = .run) (hpc : s.pc.toNat < s.progLen.toNat) (h : Effect s.fetch s t) :
      BlockEffect s t

/-- The states a step can lead to: the oldest pending move made, or the block's turn with the moves left. -/
inductive StepEffect (s : State) : State → Prop
  | move {m : HostMove} {rest : List HostMove} {t : State} (hm : s.moves = m :: rest)
      (h : MoveEffect m { s with moves := rest } t) : StepEffect s t
  | block {ms : List HostMove} {t : State} (hms : ms ⊆ s.moves) (h : BlockEffect { s with moves := ms } t) :
      StepEffect s t

theorem stepEffect_of_step {s t : State} (h : step s = .next t) : StepEffect s t := by
  rcases step_cases h with ⟨m, rest, hm, hallowed, rfl⟩ | ⟨_, ms, hms, hcase⟩
  · exact .move hm (moveEffect_performMove (s := { s with moves := rest }) hallowed)
  · have hsub : ms ⊆ s.moves := by
      rcases hms with rfl | hms
      · exact List.Subset.refl _
      · rw [hms]
        exact List.subset_cons_self _ _
    rcases hcase with ⟨hidle, rfl⟩ | ⟨hrun, hpc, rfl⟩ | ⟨hrun, hpc, hexec⟩
    · exact .block hsub (.wait hidle)
    · exact .block hsub (.fallOff (s := { s with moves := ms }) hrun hpc)
    · exact .block hsub (.exec (s := { s with moves := ms }) hrun hpc (effect_of_exec hexec))

theorem ne_reset_of_not_resetComes {s : State} {m : HostMove} {rest : List HostMove} (h : ¬ ResetComes s)
    (hm : s.moves = m :: rest) : m ≠ .op .reset := fun hreset => h ⟨rest, hreset ▸ hm⟩

/-! ### The configuration -/

theorem cfg_of_effect {i : Instr} {s t : State} (h : Effect i s t) : t.cfg = s.cfg := by cases h <;> rfl

theorem cfg_of_moveEffect {m : HostMove} {s t : State} (h : MoveEffect m s t) : t.cfg = s.cfg := by
  cases h with
  | @load _ p _ _ =>
    obtain ⟨_, _, _, hframe⟩ := commitImage_frame p s
    rw [hframe]
  | _ => rfl

/-- Settles O42: no effect of a move or of the block's turn writes the configuration. -/
theorem configurationIsFixed : Obligations.ConfigurationIsFixed := by
  intro s t hstep
  cases stepEffect_of_step hstep with
  | move _ h => exact (cfg_of_moveEffect h :)
  | block _ h =>
    cases h with
    | wait _ | fallOff _ _ => rfl
    | exec _ _ h => exact (cfg_of_effect h :)

/-! ### The fault record -/

/-- The four fault registers are as before. -/
abbrev SameFaultRecord (s t : State) : Prop :=
  t.faultCause = s.faultCause ∧ t.faultPc = s.faultPc ∧ t.faultOp = s.faultOp ∧ t.faultArg = s.faultArg

/-- FAULT is entered from another FSM state. -/
abbrev EntersFault (s t : State) : Prop := s.fsm ≠ .fault ∧ t.fsm = .fault

theorem faultRecord_of_effect {i : Instr} {s t : State} (hrun : s.fsm = .run) (h : Effect i s t) :
    SameFaultRecord s t ∨ EntersFault s t := by
  cases h with
  | fault _ => exact .inr ⟨by rw [hrun]; decide, rfl⟩
  | _ => exact .inl ⟨rfl, rfl, rfl, rfl⟩

theorem faultRecord_of_moveEffect {m : HostMove} {s t : State} (hreset : m ≠ .op .reset) (h : MoveEffect m s t) :
    SameFaultRecord s t ∨ EntersFault s t := by
  cases h with
  | reset hm => exact absurd hm hreset
  | startFault hidle _ => exact .inr ⟨by rw [hidle]; decide, rfl⟩
  | @load _ p _ _ =>
    obtain ⟨_, _, _, hframe⟩ := commitImage_frame p s
    rw [hframe]
    exact .inl ⟨rfl, rfl, rfl, rfl⟩
  | _ => exact .inl ⟨rfl, rfl, rfl, rfl⟩

/-- Settles O44: what neither resets nor enters FAULT leaves the record alone. -/
theorem faultRecordChangesOnlyOnEntryOrReset : Obligations.FaultRecordChangesOnlyOnEntryOrReset := by
  intro s t hstep hreset hentry
  suffices SameFaultRecord s t ∨ EntersFault s t from this.resolve_right hentry
  cases stepEffect_of_step hstep with
  | move hm h => exact (faultRecord_of_moveEffect (ne_reset_of_not_resetComes hreset hm) h :)
  | block _ h =>
    cases h with
    | wait _ | fallOff _ _ => exact .inl ⟨rfl, rfl, rfl, rfl⟩
    | exec hrun _ h => exact (faultRecord_of_effect hrun h :)

theorem fsm_of_moveEffect_in_fault {m : HostMove} {s t : State} (hreset : m ≠ .op .reset) (h : MoveEffect m s t)
    (hfault : s.fsm = .fault) : t.fsm = .fault := by
  cases h with
  | reset hm => exact absurd hm hreset
  | start hidle _ => cases hfault.symm.trans hidle
  | startFault _ _ => rfl
  | @load _ p _ _ =>
    obtain ⟨_, _, _, hframe⟩ := commitImage_frame p s
    rw [hframe]
    exact hfault
  | _ => exact hfault

/-- Settles O43: in FAULT the block has no turn, and of the moves only Reset leaves it; the record is kept by O44. -/
theorem faultIsLeftOnlyByReset : Obligations.FaultIsLeftOnlyByReset := by
  intro s t hfault hstep hreset
  refine ⟨?_, faultRecordChangesOnlyOnEntryOrReset s t hstep hreset fun hentry => hentry.1 hfault⟩
  cases stepEffect_of_step hstep with
  | move hm h => exact (fsm_of_moveEffect_in_fault (ne_reset_of_not_resetComes hreset hm) h hfault :)
  | block _ h =>
    cases h with
    | wait hidle => cases hfault.symm.trans hidle
    | fallOff hrun _ | exec hrun _ _ => cases hfault.symm.trans hrun

/-! ### The report of unrecognized opcodes -/

/-- The count has not fallen and `UNK` has not been cleared. -/
abbrev ReportGrows (s t : State) : Prop := s.unkCount.toNat ≤ t.unkCount.toNat ∧ (s.unk = true → t.unk = true)

theorem reportGrows_of_effect {i : Instr} {s t : State} (h : Effect i s t) : ReportGrows s t := by
  cases h with
  | @report op _ =>
    refine ⟨?_, fun _ => rfl⟩
    rw [leave_unkCount, toNat_unkCount_reportUnknown]
    have hlt := s.unkCount.isLt
    omega
  | _ => exact ⟨le_rfl, id⟩

theorem reportGrows_of_moveEffect {m : HostMove} {s t : State} (hreset : m ≠ .op .reset) (h : MoveEffect m s t) :
    ReportGrows s t := by
  cases h with
  | reset hm => exact absurd hm hreset
  | @load _ p _ _ =>
    obtain ⟨_, _, _, hframe⟩ := commitImage_frame p s
    rw [hframe]
    exact ⟨le_rfl, id⟩
  | _ => exact ⟨le_rfl, id⟩

/-- Settles O45: only an unrecognized opcode writes the report, and it counts up. -/
theorem unknownCountNeverFalls : Obligations.UnknownCountNeverFalls := by
  intro s t hstep hreset
  cases stepEffect_of_step hstep with
  | move hm h => exact (reportGrows_of_moveEffect (ne_reset_of_not_resetComes hreset hm) h :)
  | block _ h =>
    cases h with
    | wait _ | fallOff _ _ => exact ⟨le_rfl, id⟩
    | exec _ _ h => exact (reportGrows_of_effect h :)

end Sys2Proof
end

section
/-! The invariant (spec 10, 20, 40, 60): `Consistent` with its clauses named, one lemma for each kind of change of the
state, and from these that every step keeps it and none but a faulted block's stops. -/

namespace Sys2Proof

open Machine Safety

/-- `Consistent` with a name for each clause. -/
structure Sound (s : State) : Prop where
  admissible : s.cfg.Admissible
  memory : Memory.wf s = true
  progLen_le : s.progLen.toNat ≤ s.cfg.maxOps
  progLen_zero : s.loaded = false → s.progLen = 0
  running : s.fsm = .run → s.loaded = true ∧ s.pc.toNat ≤ s.progLen.toNat ∧ s.done = false ∧ s.fellOff = false
  cause : s.fsm = .fault ↔ s.faultCause ≠ .none
  record : s.faultCause = .none → s.faultPc = 0 ∧ s.faultOp = 0 ∧ s.faultArg = 0
  fellOff : s.fellOff = true → s.done = true
  faultDone : s.fsm = .fault → s.faultCause ≠ .notLoaded → s.done = false
  counted : s.unk = false ↔ s.unkCount = 0
  unkLast : s.unk = false → s.unkLast = 0
  mapX : MapOk s.iomapX s.cfg.nx
  mapY : MapOk s.iomapY s.cfg.ny
  mapA : MapOk s.iomapA s.cfg.na
  cycle : 1 ≤ s.cycleTime ∧ s.cycleTime ≤ 2147483647

theorem sound_iff_consistent (s : State) : Sound s ↔ Consistent s := by
  constructor
  · rintro ⟨h1, h2, h3, h4, h5, h6, h7, h8, h9, h10, h11, h12, h13, h14, h15⟩
    exact ⟨h1, h2, h3, h4, h5, h6, h7, h8, h9, h10, h11, h12, h13, h14, h15⟩
  · rintro ⟨h1, h2, h3, h4, h5, h6, h7, h8, h9, h10, h11, h12, h13, h14, h15⟩
    exact ⟨h1, h2, h3, h4, h5, h6, h7, h8, h9, h10, h11, h12, h13, h14, h15⟩

theorem sound_initial {c : Config} (hc : c.Admissible) : Sound (State.initial c) where
  admissible := hc
  memory := initial_wf c
  progLen_le := Nat.zero_le _
  progLen_zero := fun _ => rfl
  running := fun h => by cases h
  cause := by simp [State.initial]
  record := fun _ => ⟨rfl, rfl, rfl⟩
  fellOff := fun h => by cases h
  faultDone := fun h => by cases h
  counted := by simp [State.initial]
  unkLast := fun _ => rfl
  mapX := mapOk_replicate _
  mapY := mapOk_replicate _
  mapA := mapOk_replicate _
  cycle := hc.2.2.2.2.2

/-- Settles O39: the reset state meets every clause, most of them by its fields being 0 or empty. -/
theorem consistentAtReset : Obligations.ConsistentAtReset :=
  ⟨by decide, fun _ hc => (sound_iff_consistent _).mp (sound_initial hc)⟩

section

variable {s t : State}

/-! ### Each kind of change -/

theorem cause_none_of_ne_fault (hs : Sound s) (h : s.fsm ≠ .fault) : s.faultCause = .none := by
  by_contra hcause
  exact h (hs.cause.mpr hcause)

/-- The ports, the report and the pending moves are in no clause. -/
theorem sound_with_ports (hs : Sound s) (v u : Word) (d : Nat) (ms : List HostMove) :
    Sound { s with memRdata := v, regRdata := u, draws := d, moves := ms } := { hs with }

theorem sound_with_moves (hs : Sound s) (ms : List HostMove) : Sound { s with moves := ms } := { hs with }

theorem sound_setBit (hs : Sound s) {a : Nat} (ha : a < s.cfg.nb) (v : Bit) : Sound (s.setBit a v) :=
  { hs with memory := setBit_wf s a v ha hs.memory }

theorem sound_setInt (hs : Sound s) {a : Nat} (ha : a < s.cfg.ni) (v : Word) : Sound (s.setInt a v) :=
  { hs with memory := setInt_wf s a v ha hs.memory }

theorem sound_setSlot (hs : Sound s) {i : Nat} (hi : i < s.cfg.maxOps) (w : Record) : Sound (s.setSlot i w) :=
  { hs with memory := setSlot_wf s i w hi hs.memory }

theorem sound_with_pc (hs : Sound s) {pc : Half} (hpc : pc.toNat ≤ s.progLen.toNat) : Sound { s with pc := pc } :=
  { hs with
    running := fun hrun => by
      obtain ⟨hloaded, _, hdone, hfell⟩ := hs.running hrun
      exact ⟨hloaded, hpc, hdone, hfell⟩ }

/-- The end of a scan, at `END` or at `pc = N`. -/
theorem sound_end (hs : Sound s) (hrun : s.fsm = .run) (fell : Bool) :
    Sound { s with done := true, fellOff := fell, fsm := .idle } :=
  have hcause : s.faultCause = .none := cause_none_of_ne_fault hs (by rw [hrun]; decide)
  { hs with
    running := fun h => by cases h
    cause := by simp [hcause]
    fellOff := fun _ => rfl
    faultDone := fun h => by cases h }

theorem sound_enterFault (hs : Sound s) {cause : FaultCause} (hcause : cause ≠ .none)
    (hdone : cause ≠ .notLoaded → s.done = false) (pc op arg : Half) : Sound (enterFault cause pc op arg s) :=
  { hs with
    running := fun h => by cases h
    cause := iff_of_true rfl hcause
    record := fun h => absurd h hcause
    faultDone := fun _ => hdone }

theorem sound_reportUnknown (hs : Sound s) (op : Half) : Sound (s.reportUnknown op) :=
  have hcount : (s.reportUnknown op).unkCount ≠ 0 := fun h => by
    have hnat := toNat_unkCount_reportUnknown s op
    rw [h] at hnat
    have hzero : (0 : Half).toNat = 0 := rfl
    omega
  { hs with
    counted := iff_of_false (by simp) hcount
    unkLast := fun h => by cases h }

theorem sound_start (hs : Sound s) (hidle : s.fsm = .idle) (hloaded : s.loaded = true) :
    Sound { s with pc := 0, done := false, fellOff := false, fsm := .run } :=
  have hcause : s.faultCause = .none := cause_none_of_ne_fault hs (by rw [hidle]; decide)
  { hs with
    running := fun _ => ⟨hloaded, Nat.zero_le _, rfl, rfl⟩
    cause := by simp [hcause]
    fellOff := fun h => by cases h
    faultDone := fun h => by cases h }

/-- Outside RUN the program may be replaced by any that fits, or by none. -/
theorem sound_with_program (hs : Sound s) (hrun : s.fsm ≠ .run) {n : Half} {loaded : Bool} (report : LoadReport)
    (hn : n.toNat ≤ s.cfg.maxOps) (hzero : loaded = false → n = 0) :
    Sound { s with progLen := n, loaded := loaded, loadReport := report } :=
  { hs with
    progLen_le := hn
    progLen_zero := hzero
    running := fun h => absurd h hrun }

theorem sound_with_tables (hs : Sound s) {tables : HostTables} (h : TablesOk s.cfg tables) :
    Sound (adoptTables tables s) :=
  { hs with
    mapX := h.1
    mapY := h.2.1
    mapA := h.2.2.1
    cycle := h.2.2.2 }

theorem sound_writeRecords (hs : Sound s) (n : Nat) (records : List Record) : Sound (writeRecords n records s) := by
  induction records generalizing n s with
  | nil => exact hs
  | cons w records ih =>
    rw [writeRecords, hostProgWrite]
    split
    next h => exact ih (sound_setSlot hs h.2.2 w) _
    next => exact ih hs _

theorem sound_commitImage (hs : Sound s) (hrun : s.fsm ≠ .run) {source : Source} {p : Image}
    (hread : readContainer s.cfg source = .ok p) : Sound (commitImage p s) := by
  have hfit := readContainer_length hread
  have hunloaded : Sound (unloaded s) :=
    sound_with_program hs hrun s.loadReport (Nat.zero_le _) fun _ => rfl
  have hwritten := sound_writeRecords hunloaded 0 p.records
  rw [writeRecords_frame] at hwritten
  have hcommitted := sound_with_program hwritten hrun (n := BitVec.ofNat 16 p.records.length) (loaded := true) .loaded
    ((Nat.mod_le _ _).trans hfit) (fun h => by cases h)
  rw [commitImage_of_fits hrun hfit]
  exact sound_with_tables hcommitted (readContainer_tablesOk hs.admissible hread)

/-! ### Every effect -/

theorem toNat_lt_of_valid {a : Half} {size : Nat} (h : Valid a size) : a.toNat < size := by
  obtain ⟨hlo, hhi⟩ := h
  have hlt := a.isLt
  rw [BitVec.toInt_eq_toNat_cond] at hlo hhi
  split at hlo <;> omega

theorem sound_of_effect {i : Instr} (hs : Sound s) (hrun : s.fsm = .run) (hpc : s.pc.toNat < s.progLen.toNat)
    (h : Effect i s t) : Sound t := by
  obtain ⟨_, _, hdone, _⟩ := hs.running hrun
  have hnext : (s.pc + 1).toNat ≤ s.progLen.toNat := by
    have hlen := s.progLen.isLt
    rw [toNat_add_one_of_lt (by omega)]
    exact hpc
  cases h with
  | fault hviolates =>
    refine sound_enterFault hs ?_ (fun _ => hdone) _ _ _
    rcases hviolates with rfl | rfl | ⟨rfl, _⟩ <;> decide
  | storeBit _ ha => exact sound_with_pc (sound_setBit hs ha _) hnext
  | storeInt _ ha => exact sound_with_pc (sound_setInt hs ha _) hnext
  | goOn => exact sound_with_pc hs hnext
  | jump _ hvalid => exact sound_with_pc hs (toNat_lt_of_valid hvalid).le
  | stop _ => exact sound_end hs hrun s.fellOff
  | report _ => exact sound_with_pc (sound_reportUnknown hs _) hnext

theorem sound_of_blockEffect (hs : Sound s) (h : BlockEffect s t) : Sound t := by
  cases h with
  | wait _ => exact hs
  | fallOff hrun _ => exact sound_end hs hrun true
  | exec hrun hpc h => exact sound_of_effect hs hrun hpc h

theorem sound_of_moveEffect {m : HostMove} (hs : Sound s) (h : MoveEffect m s t) : Sound t := by
  cases h with
  | reset _ => exact { sound_initial hs.admissible with }
  | start hidle hloaded => exact sound_start hs hidle hloaded
  | startFault _ _ => exact sound_enterFault hs (by decide) (fun h => absurd rfl h) _ _ _
  | unload hrun => exact sound_with_program hs hrun _ (Nat.zero_le _) fun _ => rfl
  | writeSlot _ hi => exact sound_setSlot hs hi _
  | commit _ hrun hn => exact sound_with_program hs hrun s.loadReport hn fun h => by cases h
  | writeBit ha => exact sound_setBit hs ha _
  | writeInt ha => exact sound_setInt hs ha _
  | load hrun hread => exact sound_commitImage hs hrun hread
  | ports _ => exact sound_with_ports hs _ _ _ _

/-- Settles O40: whichever effect a step has, it is a change that keeps the named clauses. -/
theorem consistentIsKeptByEveryStep : Obligations.ConsistentIsKeptByEveryStep := by
  intro s t hs hstep
  rw [← sound_iff_consistent] at hs ⊢
  cases stepEffect_of_step hstep with
  | move _ h => exact sound_of_moveEffect (sound_with_moves hs _) h
  | block _ h => exact sound_of_blockEffect (sound_with_moves hs _) h

/-! ### Progress -/

/-- A consistent block out of FAULT has a turn: in RUN `pc` is at most `N`. -/
theorem step_next_of_engineTurn {u : State} (hs : Sound s) (hfault : s.fsm ≠ .fault)
    (hturn : nextAction u = engineTurn s) : ∃ t, step u = .next t := by
  rcases engineTurn_cases s with ⟨_, h⟩ | ⟨h, _⟩ | ⟨_, _, h⟩ | ⟨_, _, h⟩ | ⟨hrun, hpc, _⟩
  · exact ⟨_, step_of_nextAction_become (hturn.trans h)⟩
  · exact absurd h hfault
  · exact ⟨_, step_of_nextAction_become (hturn.trans h)⟩
  · rw [step_of_nextAction_run (hturn.trans h)]
    exact exec_next _ _
  · obtain ⟨_, hle, _, _⟩ := hs.running hrun
    omega

theorem step_of_faulted (hfault : s.fsm = .fault) (hm : s.moves = []) :
    step s = .fault (.blockFaulted s.faultCause) := by
  simp only [step, nextAction, hm, engineTurn, hfault]

theorem run_of_not_allowed {m : HostMove} {f : Fsm} (h : m.allowed f = false) : f = .run := by
  cases f with
  | run => rfl
  | idle | fault => cases h

/-- With a move pending a consistent block always steps: the move is made, goes by, or waits for the scan. -/
theorem step_next_of_pending {m : HostMove} {rest : List HostMove} (hs : Sound s) (hm : s.moves = m :: rest) :
    ∃ t, step s = .next t := by
  by_cases hpass : m = .pass
  · subst hpass
    by_cases hrun : s.fsm = .run
    · exact step_next_of_engineTurn (sound_with_moves hs rest) (by rw [hrun]; decide) (nextAction_of_pass hrun hm)
    · exact ⟨_, step_of_pass hm hrun⟩
  · cases hallowed : m.allowed s.fsm with
    | true => exact ⟨_, step_of_allowed hm hpass hallowed⟩
    | false =>
      have hrun := run_of_not_allowed hallowed
      have hturn : EnginesTurn s := ⟨hrun, fun m' rest' hm' => by
        cases hm.symm.trans hm'
        exact ⟨hpass, hrun ▸ hallowed⟩⟩
      exact step_next_of_engineTurn hs (by rw [hrun]; decide) (nextAction_of_enginesTurn hturn)

end

/-- Settles O41: only with no pending move is the turn the block's in FAULT. -/
theorem onlyAFaultedBlockStops : Obligations.OnlyAFaultedBlockStops := by
  intro s hs
  rw [← sound_iff_consistent] at hs
  cases hm : s.moves with
  | cons m rest => exact .inl (step_next_of_pending hs hm)
  | nil =>
    by_cases hfault : s.fsm = .fault
    · exact .inr ⟨hfault, rfl, step_of_faulted hfault hm⟩
    · have hturn : nextAction s = engineTurn s := by simp only [nextAction, hm]
      exact .inl (step_next_of_engineTurn hs hfault hturn)

end Sys2Proof
end

section
/-! Jump targets of loaded programs (spec 30 R114, 40 R138): the targets of the slots below `N` fit after a load, every
effect but a program write by hand keeps that, and while it holds no instruction violates its target. -/

namespace Sys2Proof

open Machine Safety

section

variable {s t : State}

theorem targetsFit_of_progLen_eq_zero (h : s.progLen = 0) : TargetsFit s := by
  intro i hi
  rw [h] at hi
  exact absurd hi (Nat.not_lt_zero i)

theorem targetsFit_commitImage {source : Source} {p : Image} (hmax : s.cfg.maxOps ≤ 32768) (hrun : s.fsm ≠ .run)
    (hread : readContainer s.cfg source = .ok p) : TargetsFit (commitImage p s) := by
  have hfit := readContainer_length hread
  have hcfg : (commitImage p s).cfg = s.cfg := by rw [commitImage_of_fits hrun hfit]
  have hlen : (commitImage p s).progLen.toNat = p.records.length := by
    rw [commitImage_of_fits hrun hfit]
    exact Nat.mod_eq_of_lt (by omega)
  intro i hi
  rw [hlen] at hi
  rw [hcfg, hlen, slot_commitImage hrun hmax hfit, dif_pos hi]
  exact readContainer_targetFits hread _ (List.getElem_mem hi)

/-! ### Instructions -/

/-- While the targets fit, the target of the fetched instruction is valid. -/
theorem valid_of_fetch (h : TargetsFit s) (hpc : s.pc.toNat < s.progLen.toNat) {target : Half}
    (htarget : targetOf s.fetch = some target) : Valid target s.progLen.toNat := by
  have hfits := h _ hpc
  rw [State.fetch] at htarget
  rw [targetFits, htarget] at hfits
  exact of_decide_eq_true hfits

theorem targetsFit_of_effect {i : Instr} (heffect : Effect i s t) (h : TargetsFit s) : TargetsFit t := by
  cases heffect <;> exact h

theorem faultCause_of_effect (heffect : Effect s.fetch s t) (h : TargetsFit s)
    (hpc : s.pc.toNat < s.progLen.toNat) (hcause : t.faultCause = .jumpTarget) : s.faultCause = .jumpTarget := by
  cases heffect with
  | @fault cause arg hviolates =>
    obtain rfl : cause = .jumpTarget := hcause
    rcases hviolates with hbit | hint | ⟨_, htarget, hinvalid⟩
    · cases hbit
    · cases hint
    · exact absurd (valid_of_fetch h hpc htarget) hinvalid
  | _ => exact hcause

/-! ### Host moves -/

theorem targetsFit_of_moveEffect {m : HostMove} (heffect : MoveEffect m s t) (hmax : s.cfg.maxOps ≤ 32768)
    (hhand : ¬ ProgramsByHand m) (h : TargetsFit s) : TargetsFit t := by
  cases heffect with
  | reset _ => exact targetsFit_of_progLen_eq_zero rfl
  | unload _ => exact targetsFit_of_progLen_eq_zero rfl
  | writeSlot hm _ => exact absurd (.inl ⟨_, _, hm⟩) hhand
  | commit hm _ _ => exact absurd (.inr ⟨_, hm⟩) hhand
  | load hrun hread => exact targetsFit_commitImage hmax hrun hread
  | start _ _ | startFault _ _ | writeBit _ | writeInt _ | ports _ => exact h

theorem faultCause_of_moveEffect {m : HostMove} (heffect : MoveEffect m s t) (hcause : t.faultCause = .jumpTarget) :
    s.faultCause = .jumpTarget := by
  cases heffect with
  | reset _ | startFault _ _ => cases hcause
  | @load _ p _ _ =>
    obtain ⟨_, _, _, hframe⟩ := commitImage_frame p s
    rw [hframe] at hcause
    exact hcause
  | _ => exact hcause

theorem moves_of_moveEffect {m : HostMove} (heffect : MoveEffect m s t) (h : ∀ m' ∈ s.moves, ¬ ProgramsByHand m') :
    ∀ m' ∈ t.moves, ¬ ProgramsByHand m' := by
  cases heffect with
  | @load _ p _ _ =>
    obtain ⟨_, _, _, hframe⟩ := commitImage_frame p s
    rw [hframe]
    exact h
  | ports hplanned => exact List.forall_mem_append.mpr ⟨hplanned, h⟩
  | _ => exact h

theorem moves_of_effect {i : Instr} (heffect : Effect i s t) : t.moves = s.moves := by cases heffect <;> rfl

/-! ### Steps and runs -/

theorem targetsFit_of_step (hmax : s.cfg.maxOps ≤ 32768) (hhand : ∀ m rest, s.moves = m :: rest → ¬ ProgramsByHand m)
    (h : TargetsFit s) (hstep : step s = .next t) :
    TargetsFit t ∧ (t.faultCause = .jumpTarget → s.faultCause = .jumpTarget) := by
  cases stepEffect_of_step hstep with
  | move hm heffect =>
    exact ⟨targetsFit_of_moveEffect heffect hmax (hhand _ _ hm) h, (faultCause_of_moveEffect heffect :)⟩
  | block _ hblock =>
    cases hblock with
    | wait _ | fallOff _ _ => exact ⟨h, id⟩
    | exec _ hpc heffect => exact ⟨targetsFit_of_effect heffect h, (faultCause_of_effect heffect h hpc :)⟩

theorem moves_of_step (h : ∀ m ∈ s.moves, ¬ ProgramsByHand m) (hstep : step s = .next t) :
    ∀ m ∈ t.moves, ¬ ProgramsByHand m := by
  cases stepEffect_of_step hstep with
  | move hm heffect =>
    exact moves_of_moveEffect heffect fun m' hm' => h m' (hm ▸ List.mem_cons_of_mem _ hm')
  | block hms hblock =>
    cases hblock with
    | wait _ | fallOff _ _ => exact fun m hm => h m (hms hm)
    | exec _ _ heffect =>
      rw [moves_of_effect heffect]
      exact fun m hm => h m (hms hm)

theorem faultCause_of_run {k : Nat} (hmax : s.cfg.maxOps ≤ 32768) (hmoves : ∀ m ∈ s.moves, ¬ ProgramsByHand m)
    (h : TargetsFit s) (hcause : s.faultCause ≠ .jumpTarget) (hrun : Host.Core.run core k s = .next t) :
    t.faultCause ≠ .jumpTarget := by
  induction k generalizing s with
  | zero => exact Host.Outcome.next.inj hrun ▸ hcause
  | succ k ih =>
    obtain ⟨u, hstep, hrest⟩ := run_succ_eq_next hrun
    obtain ⟨hfits, hcauseKept⟩ :=
      targetsFit_of_step hmax (fun m rest hm => hmoves m (hm ▸ List.mem_cons_self)) h hstep
    have hcfg : u.cfg = s.cfg := configurationIsFixed s u hstep
    exact ih (hcfg ▸ hmax) (moves_of_step hmoves hstep) hfits (mt hcauseKept hcause) hrest

end

/-- Settles O58: the targets fit after a load, each step keeps that and raises no `JUMP_TARGET`, and a run is steps. -/
theorem loadedProgramsNeverFaultOnATarget : Obligations.LoadedProgramsNeverFaultOnATarget := by
  refine ⟨?load, ?step, ?run⟩
  case load =>
    rintro s source p ⟨_, _, ⟨_, hmax⟩, _⟩ hrun hread
    rw [loadProgram_of_ok hread]
    exact targetsFit_commitImage hmax hrun hread
  case step =>
    rintro s t ⟨_, _, ⟨_, hmax⟩, _⟩ hfits hhand hstep
    exact targetsFit_of_step hmax hhand hfits hstep
  case run =>
    rintro k s t ⟨_, _, ⟨_, hmax⟩, _⟩ hfits hmoves hcause hrun
    exact faultCause_of_run hmax hmoves hfits hcause hrun

end Sys2Proof
end

section
/-! The disassembly (spec 30 R122, R123): one line a record, then the diagnostic. -/

namespace Sys2Proof

open Machine

theorem length_recordTexts (c : Config) (n : Nat) (records : List Record) :
    (recordTexts c n records).length = records.length := by
  induction records generalizing n with
  | nil => rfl
  | cons w records ih => rw [recordTexts, List.length_cons, List.length_cons, ih]

theorem getElem?_recordTexts (c : Config) (n : Nat) {records : List Record} {j : Nat} (h : j < records.length) :
    (recordTexts c n records)[j]? =
      some (writeDecimal (n + j) ++ ascii ": " ++ instrText (decode c records[j])) := by
  induction records generalizing n j with
  | nil => exact absurd h (Nat.not_lt_zero j)
  | cons w records ih =>
    rw [recordTexts]
    cases j with
    | zero => rfl
    | succ j =>
      rw [List.getElem?_cons_succ, ih (n + 1) (Nat.lt_of_succ_lt_succ h), Nat.add_right_comm]
      rfl

theorem badCodes_eq_length_filter (c : Config) (records : List Record) :
    badCodes c records = (records.filter (fun w => decide ((decode c w).opcode = none))).length := by
  have hnone (o : Option Opcode) : o.isNone = decide (o = none) := by cases o <;> rfl
  rw [badCodes, List.countP_eq_length_filter]
  simp only [hnone]

theorem unlessText_eq (condition : List Byte) (t : Half) :
    unlessText condition t = ascii "unless " ++ condition ++ (ascii " goto " ++ writeSigned t.toInt) := by
  rw [unlessText, List.append_assoc]

/-- Settles O59: the record lines are those of `recordTexts`, the number of bad codes is the count R123 asks for, the
numbers read back, and the texts are `instrText` case by case. -/
theorem disassemblyCountsBadCodes : Obligations.DisassemblyCountsBadCodes := by
  refine ⟨fun c records => ⟨fun j hj => ?line, ?diagnostic⟩, readSigned_writeSigned, readDecimal_writeDecimal,
    fun k => ⟨rfl, rfl⟩, fun k m lit => ⟨rfl, rfl, rfl, rfl, rfl, rfl, rfl⟩, fun k m t => ⟨rfl, rfl, rfl, rfl, rfl⟩,
    ?skips, rfl, rfl, rfl, rfl, fun v => rfl⟩
  case line =>
    rw [disassemble, List.getElem?_append_left (by rw [length_recordTexts]; exact hj), getElem?_recordTexts c 0 hj,
      Nat.zero_add]
  case diagnostic =>
    rw [disassemble, List.drop_left' (length_recordTexts c 0 records), badCodes_eq_length_filter]
  case skips =>
    rintro k m t lit _ rfl
    exact ⟨unlessText_eq _ t, unlessText_eq _ t, unlessText_eq _ t, unlessText_eq _ t, unlessText_eq _ t,
      unlessText_eq _ t, unlessText_eq _ t, unlessText_eq _ t, rfl⟩

end Sys2Proof
end
